-- ==== Sys2Proof/Word.lean ====
section
/-! DEFINITION. The word types of LCDTX: what the spec treats as vectors of bits
(`00_scope.md` R4, R5; `10_state.md` R10; `30_encoding.md` R47). -/

namespace Sys2Proof

/-- A request word, `REQW` = 48 bits (R4, R47). -/
abbrev ReqWord := BitVec 48

/-- The integer operand field of a request word, `ARGW` = 32 bits (R4, R49); also the width of `K` (R17). -/
abbrev Arg := BitVec 32

/-- One byte: the fields `OP` and `FL` of a header (R47) and the data bus, `DW` = 8 bits (R4). -/
abbrev Byte := BitVec 8

/-- One bit per role, `NROLES` = 11 (R4): the registers `OE` and `PIN` (R12, R14). -/
abbrev Pins := BitVec 11

end Sys2Proof
end

