-- ==== Sys2Proof/Config.lean ====
section
/-! DEFINITION. What an implementation of LCDTX fixes (`00_scope.md` R4), the signal roles, and the
one free value of the model. -/

namespace Sys2Proof

/-- The 11 signal roles (`00_scope.md` R5). -/
inductive Role where
  | d0 | d1 | d2 | d3 | d4 | d5 | d6 | d7 | rs | rw | e
deriving DecidableEq, Repr

/-- One entry of the delivered list: the levels of RS, RW and D[7:0] while E is high (R8 (b)). -/
structure Frame where
  rs : Bool
  rw : Bool
  d  : Byte
deriving DecidableEq, Repr

/-- The open parameters of R4, supplied by the integrator and fixed at instantiation (R23, R138).
They stand in the machine's state as plain data because `step` takes nothing else (log 4); no
rule changes them. -/
structure Config where
  /-- `CLK_HZ`, the clock frequency. R4 says any positive value; whole hertz are the model's choice
  (DESIGN CHOICE, log 4). -/
  clkHz : Nat
  /-- `BIND`, the line identifier of each role, at the role's index (R5, R23). -/
  bind : Vector Nat 11
  /-- The lines of the platform that can be outputs: a duty of the integrator (R138 (a)). -/
  outputLines : List Nat
deriving DecidableEq, Repr

/-- `T_SETUP_MIN`, 500 microseconds, in nanoseconds (R4, R153). -/
def Config.tSetupMinNs : Nat := 500000

/-- `T_PULSE_MIN`, 500 nanoseconds, in nanoseconds (R4, R153). -/
def Config.tPulseMinNs : Nat := 500

/-- FREE VALUE (log 11): what the controller latches from an E pulse that reset cuts short is
"any value or absent" (R137, U17). The argument is the draw counter of the state. -/
opaque Config.cutPulse : Nat → Option Frame

end Sys2Proof
end

