-- ==== Sys2Proof/Syntax.lean ====
section
/-! DEFINITION. The requests of LCDTX: one constructor per row of the opcode table, and the lines
of its assembler (`30_encoding.md` R48, R51, R60, R61). -/

namespace Sys2Proof

/-- One request word's meaning. Integer operands are the unbounded integers of the abstract
operations (`00_scope.md` R5, `30_encoding.md` R49); `WellFormed` says which a word can carry. -/
inductive Instr where
  /-- `INIT`, the document's `Init()` (R107). -/
  | init
  /-- `CLR`, `ClearScreen` (R91). -/
  | clr
  /-- `HOME`, `Home` (R92). -/
  | home
  /-- `FMT`, `SetScreenFormat(twoLines, font5x11)` (R93). -/
  | fmt (twoLines font5x11 : Bool)
  /-- `DISP`, `SetDisplay(on, cursor, blink)` (R94). -/
  | disp (on cursor blink : Bool)
  /-- `CUR`, `CursorRight(n)` (R95). -/
  | cur (n : Int)
  /-- `CUL`, `CursorLeft(n)` (R96). -/
  | cul (n : Int)
  /-- `POS`, `SetCursorPosition(col, secondLine)` (R97). -/
  | pos (col : Int) (secondLine : Bool)
  /-- `WRS`, the header of `WriteString(s)` with the length of `s` (R98). -/
  | wrs (len : Int)
  /-- `TX`, `transmit(value, dataMode)` (R80). -/
  | tx (value : Int) (dataMode : Bool)
  /-- `CHR`, one payload word of a `WRS` burst, with its code point (R51). -/
  | chr (cp : Int)
deriving DecidableEq, Repr

/-- One line of the assembler (R60), the pseudo-instructions of R61 among them. -/
inductive AsmLine where
  | init | clr | home
  | fmt (twoLines font5x11 : Bool)
  | disp (on cursor blink : Bool)
  | cur (n : Int)
  | cul (n : Int)
  | pos (col : Int) (secondLine : Bool)
  /-- `WRS` with its characters as code points, whichever way the string was written. -/
  | wrs (cps : List Int)
  | tx (value : Int) (dataMode : Bool)
  /-- `WRC c` abbreviates `WRS [c]`. -/
  | wrc (c : Int)
  /-- `CMD v` abbreviates `TX v, 0`. -/
  | cmd (v : Int)
  /-- `DAT v` abbreviates `TX v, 1`. -/
  | dat (v : Int)
deriving DecidableEq, Repr

end Sys2Proof
end

