-- ==== Sys2Proof/WellFormed.lean ====
section
/-! DEFINITION. Which requests a 48-bit word can spell: the operand range of `30_encoding.md` R49
and clause (d) of R55. -/

namespace Sys2Proof

/-- The integers a 32-bit two's complement field holds (R49). -/
def fitsArg (n : Int) : Bool := decide (-2147483648 ≤ n) && decide (n ≤ 2147483647)

/-- A request that a word of the request channel can spell. Booleans are always in range; an
integer operand fits `ARG` (R49), and a string's length is not negative (R55 (d)). -/
def Instr.wellFormed : Instr → Bool
  | .init | .clr | .home => true
  | .fmt _ _ => true
  | .disp _ _ _ => true
  | .cur n => fitsArg n
  | .cul n => fitsArg n
  | .pos col _ => fitsArg col
  | .wrs len => fitsArg len && decide (0 ≤ len)
  | .tx value _ => fitsArg value
  | .chr cp => fitsArg cp

/-- A request that is the meaning of a header word: every one but the payload word (R51). -/
def Instr.isHeader : Instr → Bool
  | .chr _ => false
  | .init | .clr | .home | .fmt _ _ | .disp _ _ _ | .cur _ | .cul _ | .pos _ _ | .wrs _ | .tx _ _ => true

end Sys2Proof
end

