-- ==== Sys2Proof/Decode.lean ====
section
/-! DEFINITION. Decoding and encoding of request words (`30_encoding.md` sections 1, 2 and 5).
Decoding of a header is total and rejects an illegal word by the clause of R55 that it breaks; a
payload word is decoded by its place in a burst, never by its bits (R51, R57). -/

namespace Sys2Proof

/-! ## Fields (R47, R49, R51) -/

/-- `OP`, bits 47:40. -/
def opField (w : ReqWord) : Byte := w.extractLsb' 40 8

/-- `FL`, bits 39:32. -/
def flField (w : ReqWord) : Byte := w.extractLsb' 32 8

/-- `ARG` of a header and `CP` of a payload word, bits 31:0. -/
def argField (w : ReqWord) : Arg := w.extractLsb' 0 32

/-- `sext_32` (R5): the field read as a two's complement integer. -/
def sext32 (a : Arg) : Int := a.toInt

/-- The word with the three fields of R47. -/
def header (op fl : Byte) (arg : Arg) : ReqWord := op ++ fl ++ arg

/-! ## Decoding -/

/-- Why a header word spells no operation: the clauses of R55. -/
inductive Illegal where
  /-- (a) `OP` is 0x00 or 0x0B to 0xFF. -/
  | operation
  /-- (b) `FL` has a 1 outside the operation's mask. -/
  | flags
  /-- (c) `ARG` is not 0 and the operation has no integer operand. -/
  | argument
  /-- (d) `OP` is `WRS` and the length is negative. -/
  | length
deriving DecidableEq, Repr

/-- A header with no integer operand: `FL` within the operation's mask of R50, `ARG` 0 (R55 (b), (c)). -/
def flagsOnly (mask fl : Byte) (arg : Arg) (i : Instr) : Except Illegal Instr :=
  if fl &&& ~~~mask ≠ 0#8 then .error .flags else if arg ≠ 0#32 then .error .argument else .ok i

/-- A header with an integer operand: `FL` within the operation's mask of R50 (R55 (b)). -/
def withOperand (mask fl : Byte) (i : Instr) : Except Illegal Instr :=
  if fl &&& ~~~mask ≠ 0#8 then .error .flags else .ok i

/-- The header of a string: its length is not negative (R55 (d)). -/
def withLength (fl : Byte) (len : Int) : Except Illegal Instr :=
  if fl ≠ 0#8 then .error .flags else if len < 0 then .error .length else .ok (.wrs len)

/-- Decoding of a header word, row by row as R58 writes it. -/
def decodeHeader (w : ReqWord) : Except Illegal Instr :=
  let op := opField w
  let fl := flField w
  let arg := argField w
  let a := sext32 arg
  if op = 0x01#8 then flagsOnly 0x00#8 fl arg .init
  else if op = 0x02#8 then flagsOnly 0x00#8 fl arg .clr
  else if op = 0x03#8 then flagsOnly 0x00#8 fl arg .home
  else if op = 0x04#8 then flagsOnly 0x0C#8 fl arg (.fmt (fl.getLsbD 3) (fl.getLsbD 2))
  else if op = 0x05#8 then flagsOnly 0x07#8 fl arg (.disp (fl.getLsbD 2) (fl.getLsbD 1) (fl.getLsbD 0))
  else if op = 0x06#8 then withOperand 0x00#8 fl (.cur a)
  else if op = 0x07#8 then withOperand 0x00#8 fl (.cul a)
  else if op = 0x08#8 then withOperand 0x40#8 fl (.pos a (fl.getLsbD 6))
  else if op = 0x09#8 then withLength fl a
  else if op = 0x0A#8 then withOperand 0x01#8 fl (.tx a (fl.getLsbD 0))
  else .error .operation

/-- Decoding of a payload word: bits 47:32 are not examined, every word is one (R51). -/
def decodePayload (w : ReqWord) : Instr := .chr (sext32 (argField w))

/-- The word of `nbits` bits whose bits are `w`, the bits above `nbits` being 0. -/
def tableWord (nbits w : Nat) : ReqWord := BitVec.ofNat 48 (w % 2 ^ nbits)

/-- The row of the opcode table that a word stands for. A legal header word is its operation; any
other word can stand only for the row `CHR`, which the table says is "not selected by its bits"
(log 14). What the machine does with such a word as a HEADER is `decodeHeader`'s rejection. -/
def decodeTableWord (nbits w : Nat) : Option Instr :=
  match decodeHeader (tableWord nbits w) with
  | .ok i => some i
  | .error _ => some (decodePayload (tableWord nbits w))

/-! ## Encoding -/

/-- A Boolean operand at its bit of `FL` (R50). -/
def flagBit (bit : Nat) (b : Bool) : Byte := if b then 1#8 <<< bit else 0#8

/-- `FL` of a request (R50). -/
def encodeFlags : Instr → Byte
  | .fmt twoLines font5x11 => flagBit 3 twoLines ||| flagBit 2 font5x11
  | .disp on cursor blink => flagBit 2 on ||| flagBit 1 cursor ||| flagBit 0 blink
  | .pos _ secondLine => flagBit 6 secondLine
  | .tx _ dataMode => flagBit 0 dataMode
  | .init | .clr | .home | .cur _ | .cul _ | .wrs _ | .chr _ => 0#8

/-- `OP` of a request (R48); a payload word is written with zeros in bits 47:32 (R60). -/
def encodeOp : Instr → Byte
  | .init => 0x01#8
  | .clr => 0x02#8
  | .home => 0x03#8
  | .fmt _ _ => 0x04#8
  | .disp _ _ _ => 0x05#8
  | .cur _ => 0x06#8
  | .cul _ => 0x07#8
  | .pos _ _ => 0x08#8
  | .wrs _ => 0x09#8
  | .tx _ _ => 0x0A#8
  | .chr _ => 0x00#8

/-- `ARG` of a request, the integer operand in two's complement (R49), or `CP` (R51). -/
def encodeArg : Instr → Arg
  | .init | .clr | .home | .fmt _ _ | .disp _ _ _ => 0#32
  | .cur n => BitVec.ofInt 32 n
  | .cul n => BitVec.ofInt 32 n
  | .pos col _ => BitVec.ofInt 32 col
  | .wrs len => BitVec.ofInt 32 len
  | .tx value _ => BitVec.ofInt 32 value
  | .chr cp => BitVec.ofInt 32 cp

/-- The word of a request (R47 to R51, R60). -/
def encode (i : Instr) : ReqWord := header (encodeOp i) (encodeFlags i) (encodeArg i)

/-! ## The assembler (R60, R61) -/

/-- The requests a line stands for, the header of a string before its characters. -/
def expandLine : AsmLine → List Instr
  | .init => [.init]
  | .clr => [.clr]
  | .home => [.home]
  | .fmt t f => [.fmt t f]
  | .disp o c b => [.disp o c b]
  | .cur n => [.cur n]
  | .cul n => [.cul n]
  | .pos col s => [.pos col s]
  | .wrs cps => .wrs cps.length :: cps.map .chr
  | .tx v d => [.tx v d]
  | .wrc c => [.wrs 1, .chr c]
  | .cmd v => [.tx v false]
  | .dat v => [.tx v true]

/-- The words of a line; none when an operand does not fit 32 bits (R60). -/
def assemble (l : AsmLine) : Option (List ReqWord) :=
  if (expandLine l).all Instr.wellFormed then some ((expandLine l).map encode) else none

end Sys2Proof
end

