-- ==== Sys2Proof/Machine/State.lean ====
section
/-! DEFINITION. The state of LCDTX as plain data: the table of `10_state.md` R10, and the model's
own fields (parameters, the environment's samples, the observation of `00_scope.md` R8). -/

namespace Sys2Proof.Machine

/-- `PHASE`, the sequencer position (R13). -/
inductive Phase where
  | idle | payload | drain | acq | cfgoe | cfglow | select | drive | setup | high | fall | reset | rel | rsp
deriving DecidableEq, Repr

/-- The status codes (`30_encoding.md` R52). Codes 5, 6, 7 are never produced, so the type has five
values (`93_implementation_defined.md` U15). -/
inductive Status where
  | ok | deviceUnavailable | notInitialized | invalidCommand | badRequest
deriving DecidableEq, Repr

/-- The answer of the GPIO access layer to `Acquire()` or `Release()` (`00_scope.md` R6). -/
inductive Answer where
  | ok | fail
deriving DecidableEq, Repr

/-- The events of the trace (`00_scope.md` R8 (a)); a wait's length is in clock cycles. -/
inductive Event where
  | acq (a : Answer)
  | rel (a : Answer)
  | oe (v : Pins)
  | pin (v : Pins)
  | wait (cycles : Nat)
  | rsp (code : Status)
deriving DecidableEq, Repr

/-- The GPIO access layer's side of the session channel at one edge (`60_exceptions.md` R129). -/
inductive GpioIn where
  /-- The tie-off of R129: `ses_err = 0` and `ses_gnt = ses_req`. -/
  | tied
  /-- Levels of `ses_gnt` and `ses_err` of the layer's own. -/
  | levels (gnt err : Bool)
deriving DecidableEq, Repr

/-- What the other agents present at one rising edge of `clk`: the input ports of R129, and
`linger`, the model's own bit by which a self-timed phase lasts beyond its minimum (R75, R152;
log 6). -/
structure PortIn where
  rst      : Bool
  reqValid : Bool
  reqData  : ReqWord
  rspReady : Bool
  gpio     : GpioIn
  linger   : Bool
deriving DecidableEq, Repr

/-- The state. The first eleven fields are R10's table, "there is no other state"; the rest are
the model's own. -/
structure State where
  /-- `INITF` (R11). -/
  initf : Bool
  /-- `OE` (R12). -/
  oe : Pins
  /-- `PIN` (R14), laid out as R53 says: E, RW, RS, D7 to D0. -/
  pin : Pins
  /-- `SES` (R15). -/
  ses : Bool
  /-- `PHASE` (R13). -/
  phase : Phase
  /-- `REQR` (R16). -/
  reqr : ReqWord
  /-- `K` (R17). -/
  k : Arg
  /-- `VAL` (R18). -/
  val : Byte
  /-- `DM` (R18). -/
  dm : Bool
  /-- `TMR` (R19), a count that fits `TMRW` bits (log 20). -/
  tmr : Nat
  /-- `STAT` (R20). -/
  stat : Status
  /-- The parameters of the instance (R4; log 4). -/
  cfg : Config
  /-- The samples of the coming rising edges, first edge first (log 1). -/
  inputs : List PortIn
  /-- Cycles of the wait in progress so far (R8's length `t`). -/
  waited : Nat
  /-- The event trace so far, oldest first (R8 (a)). -/
  trace : List Event
  /-- The delivered list so far, oldest first (R8 (b)). -/
  delivered : List Frame
  /-- Free values drawn so far (log 11). -/
  draws : Nat
deriving DecidableEq, Repr

/-- Why the machine stops: never. Every error of the spec is a status code with which the machine
goes on (`60_exceptions.md` R115 to R122), so there is nothing here to raise. Safe. -/
inductive Fault where
deriving DecidableEq, Repr

/-- Why the model gives no meaning. -/
inductive Refusal where
  /-- An instruction of the table that has no meaning yet; raised by `exec` only. Safe. -/
  | notModelled (mnemonic : String)
  /-- The parameters are not those of a block that can be built: a clock of 0 hertz, two roles on
  one line, or a line that cannot be an output. Raised by `step`: "a model should refuse such a
  configuration" (`70_reset_and_hazards.md` R138). Safe. -/
  | unusableConfiguration
deriving DecidableEq, Repr

/-- The parameters `State.reset` carries. The spec leaves them open (R4); this choice, 1 MHz and
the lines 0 to 10 in role order, is the model's (log 4). -/
def exampleConfig : Config where
  clkHz := 1000000
  bind := #v[0, 1, 2, 3, 4, 5, 6, 7, 8, 9, 10]
  outputLines := List.range 11

/-- The machine right after reset (`10_state.md` R28, `70_reset_and_hazards.md` R136). `REQR`, `K`,
`VAL`, `DM`, `TMR` and `STAT` are unspecified there; their values here are the model's (log 3). -/
def State.reset : State where
  initf := false
  oe := 0x000#11
  pin := 0x000#11
  ses := false
  phase := .idle
  reqr := 0#48
  k := 0#32
  val := 0#8
  dm := false
  tmr := 0
  stat := .ok
  cfg := exampleConfig
  inputs := []
  waited := 0
  trace := []
  delivered := []
  draws := 0

end Sys2Proof.Machine
end

