-- ==== Sys2Proof/Machine/Operands.lean ====
section
/-! DEFINITION. Operands: role indexes, the bit string and its lines, the control bytes composed in
the integers, and the numbers derived from the parameters (`00_scope.md` R4, R5;
`40_transmission_engine.md` R70, R71; `41_command_encoder.md`). -/

namespace Sys2Proof.Machine

/-! ## Roles (R5, D11) -/

/-- `idx(r)`. -/
def roleIdx : Role → Nat
  | .d0 => 0 | .d1 => 1 | .d2 => 2 | .d3 => 3 | .d4 => 4 | .d5 => 5 | .d6 => 6 | .d7 => 7
  | .rs => 8 | .rw => 9 | .e => 10

/-- The role of data line Dk; k in 0..7 (any other k gives D0 and is never asked for). -/
def dataRole : Nat → Role
  | 1 => .d1 | 2 => .d2 | 3 => .d3 | 4 => .d4 | 5 => .d5 | 6 => .d6 | 7 => .d7
  | _ => .d0

/-- All eleven roles in index order. -/
def allRoles : List Role := [.d0, .d1, .d2, .d3, .d4, .d5, .d6, .d7, .rs, .rw, .e]

/-- The level of a role in a vector of 11 (R14). -/
def level (v : Pins) (r : Role) : Bool := v.getLsbD (roleIdx r)

/-- The vector with one role's bit written. -/
def setLevel (v : Pins) (r : Role) (b : Bool) : Pins :=
  if b then v ||| (1#11 <<< roleIdx r) else v &&& ~~~(1#11 <<< roleIdx r)

/-- The 11-line frame of R53 with E low: `{0, 0, dataMode, v[7:0]}`. -/
def frameBits (dataMode : Bool) (v : Byte) : Pins := 0#2 ++ BitVec.ofBool dataMode ++ v

/-- The E bit of the frame, `E << 10`. -/
def eBit : Pins := 0x400#11

/-! ## The bit string (R70, R71) -/

/-- The range check of R70 and of `Transmit` step 1 (R72). -/
def inByteRange (n : Int) : Bool := decide (0 ≤ n) && decide (n ≤ 255)

/-- `encode(n)` of R70: the 8 characters, most significant bit first, or `InvalidCommand`. -/
def bitString (n : Int) : Except Status (List Char) :=
  if inByteRange n then
    .ok ((List.range 8).map fun i => if n.toNat.testBit (7 - i) then '1' else '0')
  else .error .invalidCommand

/-- The line that string index i drives: D(7-i) (R71). -/
def lineOfStringIndex (i : Nat) : Role := dataRole (7 - i)

/-- The byte register's value for an integer in range (R72 step 1). -/
def byteOf (n : Int) : Byte := BitVec.ofInt 8 n

/-! ## Control bytes (R54, R59, R100) -/

/-- Bitwise OR of a non-negative constant with an integer: on a negative operand the OR of the
infinite two's complement representations (R5). -/
def orZ (a : Nat) : Int → Int
  | .ofNat b => .ofNat (a ||| b)
  | .negSucc b => .negSucc (b - (b &&& a))

/-- A flag's constant, or nothing. -/
def flagValue (b : Bool) (mask : Nat) : Nat := if b then mask else 0

/-- `ClearScreen` (R91). -/
def clrValue : Int := 0x01

/-- `Home` (R92). -/
def homeValue : Int := 0x02

/-- `SetScreenFormat`: the 0x10 is a constant, 8-bit mode forced (R93, R24). -/
def fmtValue (twoLines font5x11 : Bool) : Int :=
  Int.ofNat (0x20 ||| 0x10 ||| flagValue twoLines 0x08 ||| flagValue font5x11 0x04)

/-- `SetDisplay` (R94). -/
def dispValue (on cursor blink : Bool) : Int :=
  Int.ofNat (0x08 ||| flagValue on 0x04 ||| flagValue cursor 0x02 ||| flagValue blink 0x01)

/-- `CursorRight` (R95). -/
def curValue : Int := Int.ofNat (0x10 ||| 0x04)

/-- `CursorLeft` (R96). -/
def culValue : Int := Int.ofNat (0x10 ||| 0x00)

/-- `SetCursorPosition`: the whole of `col` is OR-ed in, nothing masks it (R97). -/
def posValue (col : Int) (secondLine : Bool) : Int :=
  orZ (0x80 ||| flagValue secondLine 0x40) col

/-- The loop count of `CUR` and `CUL`, max(n, 0), as `K` holds it (R90, R17). -/
def moveCount (n : Int) : Arg := BitVec.ofNat 32 n.toNat

/-- The number of payload words of a `WRS` header, as `K` holds it (R98, R17). -/
def textCount (len : Int) : Arg := BitVec.ofNat 32 len.toNat

/-! ## Numbers derived from the parameters (R4) -/

/-- `ceil(a / b)`. -/
def ceilDiv (a b : Nat) : Nat := a / b + if a % b = 0 then 0 else 1

/-- `ceil(ns * CLK_HZ / 10^9)`, at least 1. -/
def cyclesFor (ns : Nat) (c : Config) : Nat := max 1 (ceilDiv (ns * c.clkHz) 1000000000)

/-- `N_SETUP` (R4). -/
def nSetup (c : Config) : Nat := cyclesFor Config.tSetupMinNs c

/-- `N_PULSE` (R4). -/
def nPulse (c : Config) : Nat := cyclesFor Config.tPulseMinNs c

/-- `TMRW`, `ceil(log2(N_SETUP + 1))` (R19). -/
def tmrWidth (c : Config) : Nat := Nat.clog 2 (nSetup c + 1)

/-- The line of a role under `BIND` (R23). -/
def boundLine (c : Config) (r : Role) : Nat := c.bind.toList.getD (roleIdx r) 0

/-- The integrator's invariant that a model refuses to go without: a running clock, 11 distinct
lines, each one that can be an output (R138, R23). -/
def usableConfig (c : Config) : Bool :=
  decide (0 < c.clkHz) && decide c.bind.toList.Nodup && c.bind.toList.all (c.outputLines.contains ·)

end Sys2Proof.Machine
end

