-- ==== Sys2Proof/Machine/Flags.lean ====
section
/-! DEFINITION. LCDTX has no arithmetic flags (`10_state.md` R21). What stands in their place: the
derived flag `BUSY`, the status numbers, the output ports of `60_exceptions.md` R129, and the
levels of the pads. -/

namespace Sys2Proof.Machine

/-- `BUSY` is 1 exactly when `PHASE` is not `P_IDLE` (R21). -/
def busy (s : State) : Bool := decide (s.phase ≠ .idle)

/-- The phases in which a request word is taken (R46). -/
def takesWord : Phase → Bool
  | .idle | .payload | .drain => true
  | .acq | .cfgoe | .cfglow | .select | .drive | .setup | .high | .fall | .reset | .rel | .rsp => false

/-- The phases in which LCDTX wants or holds the session: from entry to `P_ACQ` to entry to
`P_REL`, or to a failed answer (R126, R127). -/
def wantsSession : Phase → Bool
  | .acq | .cfgoe | .cfglow | .select | .drive | .setup | .high | .fall | .reset => true
  | .idle | .payload | .drain | .rel | .rsp => false

/-- The number of a status code (R52). -/
def statusCode : Status → BitVec 3
  | .ok => 0#3
  | .deviceUnavailable => 1#3
  | .notInitialized => 2#3
  | .invalidCommand => 3#3
  | .badRequest => 4#3

/-- The output ports (R129). -/
structure PortOut where
  reqReady : Bool
  rspValid : Bool
  rspCode  : BitVec 3
  sesReq   : Bool
  pinO     : Pins
  pinOe    : Pins
deriving DecidableEq, Repr

/-- The outputs in a state: `pin_o` and `pin_oe` are the registers, bit for bit, at all times
(R128); the others follow `PHASE` (R46, R52, R126, R127). -/
def outputs (s : State) : PortOut where
  reqReady := takesWord s.phase
  rspValid := decide (s.phase = .rsp)
  rspCode := statusCode s.stat
  sesReq := wantsSession s.phase
  pinO := s.pin
  pinOe := s.oe

/-- `ses_gnt` as sampled, given what LCDTX drives on `ses_req` (R129). -/
def gntOf (g : GpioIn) (sesReq : Bool) : Bool :=
  match g with
  | .tied => sesReq
  | .levels gnt _ => gnt

/-- `ses_err` as sampled (R129). -/
def errOf : GpioIn → Bool
  | .tied => false
  | .levels _ err => err

/-- The answer to `Acquire()` at an edge in `P_ACQ`: `ses_err` wins over `ses_gnt`; none of the two,
no answer yet (R126). -/
def acqAnswer (g : GpioIn) (sesReq : Bool) : Option Answer :=
  if errOf g then some .fail else if gntOf g sesReq then some .ok else none

/-- The answer to `Release()` at an edge in `P_REL` (R127). -/
def relAnswer (g : GpioIn) (sesReq : Bool) : Option Answer :=
  if errOf g then some .fail else if gntOf g sesReq then none else some .ok

/-- What an event tells of the pads, as the pair of "known to carry `PIN`" and "an E pulse has been
made in this session": unknown after `acq(fail)`, known again when the session of a transmission
has closed with `rel(ok)` (R124; log 17). -/
def padsAfter (p : Bool × Bool) : Event → Bool × Bool
  | .acq .fail => (false, false)
  | .acq .ok => (p.1, false)
  | .pin v => (p.1, p.2 || level v .e)
  | .rel .ok => (p.1 || p.2, false)
  | .rel .fail => (p.1, false)
  | .oe _ | .wait _ | .rsp _ => p

/-- Whether the pads are known to carry `PIN`: after `acq(fail)` they may be at any level until the
next successful transmission, those of an `INIT` among them (R124; log 17). -/
def padsKnown (trace : List Event) : Bool := (trace.foldl padsAfter (true, false)).1

/-- The level of the pad of a role, none where LCDTX does not determine it (R12, R14, R124, R128). -/
def padLevel (s : State) (r : Role) : Option Bool :=
  if level s.oe r && padsKnown s.trace then some (level s.pin r) else none

/-- The level of a physical line: that of the role bound to it, if one is (R14, R128). -/
def lineLevel (s : State) (line : Nat) : Option Bool :=
  match allRoles.find? (fun r => boundLine s.cfg r == line) with
  | some r => padLevel s r
  | none => none

/-- The least number of cycles a phase lasts (R13, R152). -/
def leastCycles (c : Config) : Phase → Nat
  | .setup => nSetup c
  | .high => nPulse c
  | .acq | .cfgoe | .cfglow | .select | .drive | .fall | .reset | .rel => 1
  | .idle | .payload | .drain | .rsp => 1

end Sys2Proof.Machine
end

