-- ==== Sys2Proof/Machine/Ops.lean ====
section
/-! DEFINITION. The named operations every meaning is written over: the primitives of
`00_scope.md` R6, `Respond` (`30_encoding.md` R52), raising an error and taking its response
(`60_exceptions.md` R120, R122), the entry of `Transmit` (`40_transmission_engine.md` R72), and
the reset input (`70_reset_and_hazards.md` R135 to R137). -/

namespace Sys2Proof.Machine

/-! ## Plain updates -/

/-- Record an event of R8 (a). -/
def State.emit (s : State) (e : Event) : State := { s with trace := s.trace ++ [e] }

/-- `PHASE <- p` (R6, R13). -/
def State.goto (s : State) (p : Phase) : State := { s with phase := p }

/-- `REQR` takes the accepted header word of an operation (R16, R28; log 8). -/
def State.latch (s : State) (w : ReqWord) : State := { s with reqr := w }

/-- `K <- n` (R17). -/
def State.setK (s : State) (n : Arg) : State := { s with k := n }

/-! ## Pins (R6, R26, R31) -/

/-- The vector after the writes of one `PinWrite`. -/
def writeLevels (v : Pins) (ws : List (Role × Bool)) : Pins :=
  ws.foldl (fun v w => setLevel v w.1 w.2) v

/-- `PinWrite(r1 <- b1, ...)` at one clock edge; legal only while `SES = 1`, and without effect
otherwise (log 12). The event records the whole vector (R8). -/
def pinWrite (ws : List (Role × Bool)) (s : State) : State :=
  if s.ses then { s with pin := writeLevels s.pin ws, trace := s.trace ++ [.pin (writeLevels s.pin ws)] } else s

/-- `OE <- 0x7FF`, step 2 of `INIT` (R12, R107); legal only while `SES = 1` (R26; log 12). -/
def enableOutputs (s : State) : State :=
  if s.ses then { s with oe := 0x7FF#11, trace := s.trace ++ [.oe 0x7FF#11] } else s

/-- The writes of `Transmit` step 3: RS to the data mode, RW low (R72). -/
def selectWrites (dm : Bool) : List (Role × Bool) := [(.rs, dm), (.rw, false)]

/-- The writes of `Transmit` step 4: line Dk to bit k of `VAL` (R71, R72). -/
def driveWrites (v : Byte) : List (Role × Bool) :=
  [(.d7, v.getLsbD 7), (.d6, v.getLsbD 6), (.d5, v.getLsbD 5), (.d4, v.getLsbD 4),
   (.d3, v.getLsbD 3), (.d2, v.getLsbD 2), (.d1, v.getLsbD 1), (.d0, v.getLsbD 0)]

/-- The writes of `Transmit` step 7 and of `INIT` step 3: every line low (R72, R107). -/
def lowWrites : List (Role × Bool) := allRoles.map (·, false)

/-- What the controller sees while E is high (R8 (b)). -/
def presented (v : Pins) : Frame where
  rs := level v .rs
  rw := level v .rw
  d := v.setWidth 8

/-! ## Ending an operation -/

/-- `Respond(code)`: `STAT <- code`, `PHASE <- P_RSP` (R52). -/
def respond (code : Status) (s : State) : State :=
  { s with stat := code, phase := .rsp, trace := s.trace ++ [.rsp code] }

/-- Whether the operation in flight is a `WRS` burst, told by `REQR` (R16). -/
def inBurst (s : State) : Bool :=
  match decodeHeader s.reqr with
  | .ok (.wrs _) => true
  | _ => false

/-- `drain(n)` of R98, then the response `code`: with no word to take the response comes at once and
`K` is not touched; else `K` counts the words of the drain, `STAT` already holding the code
(R17, R57; log 9). -/
def drainThen (code : Status) (n : Arg) (s : State) : State :=
  if n = 0#32 then respond code s else { s with k := n, stat := code, phase := .drain }

/-- TAKING AN ERROR, `raise <Error>` (R120): the operation ends here; a `WRS` first drains the
payload words it has not taken (R57, R98). Nothing is saved and no pin, `OE` or `INITF` changes. -/
def raise (code : Status) (s : State) : State :=
  if inBurst s then drainThen code s.k s else respond code s

/-- RETURNING FROM IT: the host has accepted the response and `P_IDLE` is entered, after an error
exactly as after a success (R52, R122). -/
def acceptResponse (s : State) : State := s.goto .idle

/-- One payload word taken and discarded in `P_DRAIN`; the response follows the last (R57, R98). -/
def drainWord (s : State) : State :=
  if s.k - 1#32 = 0#32 then respond s.stat (s.setK 0#32) else s.setK (s.k - 1#32)

/-- The guard in front of every operation but `INIT`, evaluated before anything the operation does;
`refused` is what the operation does where `INITF` is 0 (R106). -/
def guardOr (refused body : State → State) (s : State) : State :=
  if s.initf then body s else refused s

/-- The guard of every operation but `WRS`: refused, it raises `NotInitialized` at once (R106). -/
def guarded (body : State → State) (s : State) : State := guardOr (raise .notInitialized) body s

/-! ## Transmit (R72) -/

/-- Steps 1 and 2 of `Transmit`: the range check, then `VAL` and `DM`, then the session is asked
for. Out of range, the operation raises `InvalidCommand` with no session and no pin write. -/
def transmit (value : Int) (dataMode : Bool) (s : State) : State :=
  if inByteRange value then { s with val := byteOf value, dm := dataMode, phase := .acq }
  else raise .invalidCommand s

/-- The shape of `CLR`, `HOME`, `FMT`, `DISP`, `POS` and of `TX`: guard, one transmission (R80, R90). -/
def single (value : Int) (dataMode : Bool) (s : State) : State := guarded (transmit value dataMode) s

/-- The loop head of `repeat` (R90): a further transmission while `K > 0`, else `OK`. -/
def moveLoop (value : Int) (s : State) : State :=
  if s.k = 0#32 then respond .ok s else transmit value false s

/-- The shape of `CUR` and `CUL` (R90): guard, `K <- max(n, 0)`, the loop. -/
def repeated (value : Int) (n : Int) (s : State) : State :=
  guarded (fun s => moveLoop value (s.setK (moveCount n))) s

/-- The loop head of `WRS` (R98): wait for the next payload word while `K > 0`, else `OK`. -/
def textLoop (s : State) : State :=
  if s.k = 0#32 then respond .ok s else s.goto .payload

/-- One payload word taken in `P_PAYLOAD`: counted, then transmitted with RS high (R98). -/
def textWord (c : Int) (s : State) : State := transmit c true (s.setK (s.k - 1#32))

/-! ## Reset (R135 to R137) -/

/-- What the delivered list gains when reset cuts a pulse: "any value or absent" (R137; log 11). -/
def cutFrames (s : State) : List Frame := (Config.cutPulse s.draws).toList

/-- A rising edge with `rst = 1`: all state takes its reset value, whatever the block was doing
(R135, R136). The parameters, the samples and the observation are not the block's state (log 18). -/
def applyReset (s : State) : State :=
  { State.reset with
    cfg := s.cfg
    inputs := s.inputs
    trace := s.trace
    delivered := if level s.pin .e then s.delivered ++ cutFrames s else s.delivered
    draws := if level s.pin .e then s.draws + 1 else s.draws }

end Sys2Proof.Machine
end

