-- ==== Sys2Proof/Machine/Sequencer.lean ====
section
/-! DEFINITION. The sequencer between two request words: what each busy phase does at a rising
clock edge (`10_state.md` R13, `40_transmission_engine.md` R72, `42_lifecycle.md` R107), and the
run of edges to the next phase in which a request word is taken. -/

namespace Sys2Proof.Machine

/-! ## After a transmission: the operation in flight goes on -/

/-- `K` while `INIT` is in the session of its steps 1 to 3; 2 and 1 tell its two transmissions
(R17, R107; log 7). -/
def configSession : Arg := 3#32

/-- Whether the session in progress is that of `INIT` steps 1 to 3. -/
def configuring (s : State) : Bool :=
  match decodeHeader s.reqr with
  | .ok .init => decide (s.k = configSession)
  | _ => false

/-- `INIT` after a session has closed: first the byte of `ClearScreen`, then that of `Home`, then
`INITF` (R107 steps 4 and 5). -/
def afterInit (s : State) : State :=
  if s.k = configSession then transmit clrValue false (s.setK 2#32)
  else if s.k = 2#32 then transmit homeValue false (s.setK 1#32)
  else respond .ok { s with initf := true }

/-- `CUR` and `CUL` after a transmission: one fewer to make (R90, R95, R96). -/
def afterMove (value : Int) (s : State) : State := moveLoop value (s.setK (s.k - 1#32))

/-- After a transmission that returned `OK`, by the operation in `REQR`. A `REQR` that holds no
operation, which no run reaches, ends like a single transmission (log 15). -/
def afterTransmission (s : State) : State :=
  match decodeHeader s.reqr with
  | .ok .init => afterInit s
  | .ok (.cur _) => afterMove curValue s
  | .ok (.cul _) => afterMove culValue s
  | .ok (.wrs _) => textLoop s
  | _ => respond .ok s

/-! ## One edge in each phase -/

/-- An edge in `P_ACQ` (R126): no answer, no step (R149). -/
def edgeAcq (x : PortIn) (s : State) : State :=
  match acqAnswer x.gpio (wantsSession s.phase) with
  | none => s
  | some .fail => raise .deviceUnavailable (s.emit (.acq .fail))
  | some .ok =>
    { s with ses := true, trace := s.trace ++ [.acq .ok],
             phase := if configuring s then .cfgoe else .select }

/-- An edge in `P_CFGOE`: `INIT` step 2 (R107). -/
def edgeCfgoe (x : PortIn) (s : State) : State :=
  if x.linger then s else (enableOutputs s).goto .cfglow

/-- An edge in `P_CFGLOW`: `INIT` step 3 (R107). -/
def edgeCfglow (x : PortIn) (s : State) : State :=
  if x.linger then s else (pinWrite lowWrites s).goto .rel

/-- An edge in `P_SELECT`: step 3 (R72). -/
def edgeSelect (x : PortIn) (s : State) : State :=
  if x.linger then s else (pinWrite (selectWrites s.dm) s).goto .drive

/-- Entry to a timed phase: `TMR` takes the least number of cycles (R19). -/
def startTimer (cycles : Nat) (s : State) : State := { s with tmr := cycles, waited := 0 }

/-- An edge in `P_DRIVE`: step 4, then the setup wait begins (R72, R19). -/
def edgeDrive (x : PortIn) (s : State) : State :=
  if x.linger then s
  else (startTimer (nSetup s.cfg) (pinWrite (driveWrites s.val) s)).goto .setup

/-- One cycle of a timed wait (R19). -/
def countCycle (s : State) : State := { s with tmr := s.tmr - 1, waited := s.waited + 1 }

/-- Whether the wait is over at this edge: `TMR` has reached 0 and the phase does not linger
(R19, R75; log 6). -/
def waitOver (x : PortIn) (s : State) : Bool := decide ((countCycle s).tmr = 0) && !x.linger

/-- The end of a wait: its event, with the length in cycles (R8, R73). -/
def endWait (s : State) : State := { s with trace := s.trace ++ [.wait s.waited], waited := 0 }

/-- An edge in `P_SETUP`: step 5; when it is over E rises and the pulse wait begins (R72). -/
def edgeSetup (x : PortIn) (s : State) : State :=
  if waitOver x s then
    (startTimer (nPulse s.cfg) (pinWrite [(.e, true)] (endWait (countCycle s)))).goto .high
  else countCycle s

/-- An edge in `P_HIGH`: the pulse wait of step 6; when it is over E falls, and the byte the
controller has been shown joins the delivered list (R72, R73, R8; log 11). -/
def edgeHigh (x : PortIn) (s : State) : State :=
  if waitOver x s then
    ({ pinWrite [(.e, false)] (endWait (countCycle s)) with
        delivered := s.delivered ++ [presented s.pin] }).goto .fall
  else countCycle s

/-- An edge in `P_FALL`: step 7, strictly after E has fallen (R72 corner case (c)). -/
def edgeFall (x : PortIn) (s : State) : State :=
  if x.linger then s else (pinWrite lowWrites s).goto .reset

/-- An edge in `P_RESET`: all lines are low; the session is given back (R72). -/
def edgeReset (x : PortIn) (s : State) : State :=
  if x.linger then s else s.goto .rel

/-- An edge in `P_REL` (R127): `SES` is 0 whatever the answer, and the operation goes on or raises
`DeviceUnavailable` (R72, R76). -/
def edgeRel (x : PortIn) (s : State) : State :=
  match relAnswer x.gpio (wantsSession s.phase) with
  | none => s
  | some .fail =>
    raise .deviceUnavailable { s with ses := false, trace := s.trace ++ [.rel .fail] }
  | some .ok => afterTransmission { s with ses := false, trace := s.trace ++ [.rel .ok] }

/-- An edge in `P_RSP` (R52, R150). -/
def edgeRsp (x : PortIn) (s : State) : State :=
  if x.rspReady then acceptResponse s else s

/-- A rising edge without reset, in a phase that takes no request word. -/
def advance (x : PortIn) (s : State) : State :=
  match s.phase with
  | .idle | .payload | .drain => s
  | .acq => edgeAcq x s
  | .cfgoe => edgeCfgoe x s
  | .cfglow => edgeCfglow x s
  | .select => edgeSelect x s
  | .drive => edgeDrive x s
  | .setup => edgeSetup x s
  | .high => edgeHigh x s
  | .fall => edgeFall x s
  | .reset => edgeReset x s
  | .rel => edgeRel x s
  | .rsp => edgeRsp x s

/-- The same with the reset input, which wins over everything (R135). -/
def busyEdge (x : PortIn) (s : State) : State := if x.rst then applyReset s else advance x s

/-! ## The run to the next request word -/

/-- Edges, one sample each, until a request word is taken or the samples end (log 2). -/
def settleFrom : List PortIn → State → State
  | [], s => { s with inputs := [] }
  | x :: xs, s => if takesWord s.phase then { s with inputs := x :: xs } else settleFrom xs (busyEdge x s)

/-- The run over the state's own samples. -/
def settle (s : State) : State := settleFrom s.inputs s

end Sys2Proof.Machine
end

