-- ==== Sys2Proof/Machine/Command.lean ====
section
/-! DEFINITION. The single-byte commands (`41_command_encoder.md` section 2). -/

namespace Sys2Proof.Machine

/-- Acceptance of `CLR` (R91). -/
def startClr (s : State) : State := single clrValue false (s.latch (encode .clr))

/-- `CLR` (R91). -/
def execClr (s : State) : Host.Outcome State Fault Refusal := .next (settle (startClr s))

/-- Acceptance of `HOME` (R92). -/
def startHome (s : State) : State := single homeValue false (s.latch (encode .home))

/-- `HOME` (R92). -/
def execHome (s : State) : Host.Outcome State Fault Refusal := .next (settle (startHome s))

/-- Acceptance of `FMT` (R93). -/
def startFmt (twoLines font5x11 : Bool) (s : State) : State :=
  single (fmtValue twoLines font5x11) false (s.latch (encode (.fmt twoLines font5x11)))

/-- `FMT` (R93). -/
def execFmt (twoLines font5x11 : Bool) (s : State) : Host.Outcome State Fault Refusal :=
  .next (settle (startFmt twoLines font5x11 s))

/-- Acceptance of `DISP` (R94). -/
def startDisp (on cursor blink : Bool) (s : State) : State :=
  single (dispValue on cursor blink) false (s.latch (encode (.disp on cursor blink)))

/-- `DISP` (R94). -/
def execDisp (on cursor blink : Bool) (s : State) : Host.Outcome State Fault Refusal :=
  .next (settle (startDisp on cursor blink s))

/-- Acceptance of `POS` (R97). -/
def startPos (col : Int) (secondLine : Bool) (s : State) : State :=
  single (posValue col secondLine) false (s.latch (encode (.pos col secondLine)))

/-- `POS` (R97). -/
def execPos (col : Int) (secondLine : Bool) (s : State) : Host.Outcome State Fault Refusal :=
  .next (settle (startPos col secondLine s))

end Sys2Proof.Machine
end

