-- ==== Sys2Proof/Machine/Cursor.lean ====
section
/-! DEFINITION. The repeated commands (`41_command_encoder.md` section 3). -/

namespace Sys2Proof.Machine

/-- Acceptance of `CUR` (R95). -/
def startCur (n : Int) (s : State) : State := repeated curValue n (s.latch (encode (.cur n)))

/-- `CUR` (R95). -/
def execCur (n : Int) (s : State) : Host.Outcome State Fault Refusal := .next (settle (startCur n s))

/-- Acceptance of `CUL` (R96). -/
def startCul (n : Int) (s : State) : State := repeated culValue n (s.latch (encode (.cul n)))

/-- `CUL` (R96). -/
def execCul (n : Int) (s : State) : Host.Outcome State Fault Refusal := .next (settle (startCul n s))

end Sys2Proof.Machine
end

