-- ==== Sys2Proof/Machine/Engine.lean ====
section
/-! DEFINITION. `TX`, the engine's own operation (`40_transmission_engine.md` section 3). -/

namespace Sys2Proof.Machine

/-- Acceptance of `TX` (R80). -/
def startTx (value : Int) (dataMode : Bool) (s : State) : State :=
  single value dataMode (s.latch (encode (.tx value dataMode)))

/-- `TX` (R80). -/
def execTx (value : Int) (dataMode : Bool) (s : State) : Host.Outcome State Fault Refusal :=
  .next (settle (startTx value dataMode s))

end Sys2Proof.Machine
end

