-- ==== Sys2Proof/Machine/Lifecycle.lean ====
section
/-! DEFINITION. `INIT` (`42_lifecycle.md`). -/

namespace Sys2Proof.Machine

/-- Acceptance of `INIT`: no guard; step 1 asks for the session (R107, R108). -/
def startInit (s : State) : State := ((s.latch (encode .init)).setK configSession).goto .acq

/-- `INIT` (R107). -/
def execInit (s : State) : Host.Outcome State Fault Refusal := .next (settle (startInit s))

end Sys2Proof.Machine
end

