-- ==== Sys2Proof/Machine/Text.lean ====
section
/-! DEFINITION. Text: the `WRS` header and its payload words (`41_command_encoder.md` section 4). -/

namespace Sys2Proof.Machine

/-- Acceptance of a `WRS` header: the guard; refused, the payload words are drained; past it the
length goes to `K` (R98, R106). -/
def startWrs (len : Int) (s : State) : State :=
  guardOr (drainThen .notInitialized (textCount len)) (fun s => textLoop (s.setK (textCount len)))
    (s.latch (encode (.wrs len)))

/-- `WRS` (R98): up to the first payload word, or to the response where there is none to take. -/
def execWrs (len : Int) (s : State) : Host.Outcome State Fault Refusal := .next (settle (startWrs len s))

/-- Acceptance of a payload word: discarded in `P_DRAIN`, else the next character (R51, R57, R98). -/
def startChr (cp : Int) (s : State) : State := if s.phase = .drain then drainWord s else textWord cp s

/-- `CHR`, a payload word: its whole effect, up to the next payload word or the end of the burst. -/
def execChr (cp : Int) (s : State) : Host.Outcome State Fault Refusal := .next (settle (startChr cp s))

end Sys2Proof.Machine
end

