-- ==== Sys2Proof/Machine/Clock.lean ====
section
/-! DEFINITION. One rising clock edge of the whole block, request words included. -/

namespace Sys2Proof.Machine

/-- The edge at which the word of a request is accepted. -/
def start : Instr → State → State
  | .init => startInit
  | .clr => startClr
  | .home => startHome
  | .fmt twoLines font5x11 => startFmt twoLines font5x11
  | .disp on cursor blink => startDisp on cursor blink
  | .cur n => startCur n
  | .cul n => startCul n
  | .pos col secondLine => startPos col secondLine
  | .wrs len => startWrs len
  | .tx value dataMode => startTx value dataMode
  | .chr cp => startChr cp

/-- The edge at which an illegal header word is accepted: it is answered `BadRequest`, one word is
consumed, and nothing but `STAT` and `PHASE` changes (R55, R118; log 13). -/
def badRequest (s : State) : State := respond .badRequest s

/-- The request word offered at an edge, read as the phase says: a header in `P_IDLE`, a payload
word in `P_PAYLOAD` and `P_DRAIN` (R46, R51, R57). -/
def readWord (p : Phase) (w : ReqWord) : Except Illegal Instr :=
  if p = .idle then decodeHeader w else .ok (decodePayload w)

/-- One rising edge of `clk` (R129): reset first, then the request channel, then the sequencer. -/
def clockEdge (x : PortIn) (s : State) : State :=
  if x.rst then applyReset s
  else if takesWord s.phase then
    if x.reqValid then
      match readWord s.phase x.reqData with
      | .ok i => start i s
      | .error _ => badRequest s
    else s
  else advance x s

/-- `n` rising edges over the state's own samples; when they have run out, nothing happens. -/
def clockEdges : Nat → State → State
  | 0, s => s
  | n + 1, s =>
    match s.inputs with
    | [] => s
    | x :: xs => clockEdges n (clockEdge x { s with inputs := xs })

end Sys2Proof.Machine
end

