-- ==== Sys2Proof/Machine/Dispatch.lean ====
section
/-! DEFINITION. The meaning of each instruction, one arm per constructor. -/

namespace Sys2Proof.Machine

def exec (i : Instr) (s : State) : Host.Outcome State Fault Refusal :=
  match i with
  | .init => Sys2Proof.Machine.execInit s
  | .clr => Sys2Proof.Machine.execClr s
  | .home => Sys2Proof.Machine.execHome s
  | .fmt twoLines font5x11 => Sys2Proof.Machine.execFmt twoLines font5x11 s
  | .disp on cursor blink => Sys2Proof.Machine.execDisp on cursor blink s
  | .cur n => Sys2Proof.Machine.execCur n s
  | .cul n => Sys2Proof.Machine.execCul n s
  | .pos col secondLine => Sys2Proof.Machine.execPos col secondLine s
  | .wrs len => Sys2Proof.Machine.execWrs len s
  | .tx value dataMode => Sys2Proof.Machine.execTx value dataMode s
  | .chr cp => Sys2Proof.Machine.execChr cp s

end Sys2Proof.Machine
end

