-- ==== Sys2Proof/Machine/Step.lean ====
section
/-! DEFINITION. The step: one request word with all it brings about, or one edge at which none is
taken. It only calls what Machine/ defines. -/

namespace Sys2Proof.Machine

/-- A rising edge at which no request word is taken and the sequencer is not busy, or at which
reset is asserted; or the rest of an operation that the last step left waiting for samples. -/
def stepWithoutWord (x : PortIn) (s : State) : State := settle (busyEdge x s)

/-- One step (log 2). With no sample left nothing happens (log 1). -/
def step (s : State) : Host.Outcome State Fault Refusal :=
  if usableConfig s.cfg then
    match s.inputs with
    | [] => .next s
    | x :: xs =>
      if !x.rst && takesWord s.phase && x.reqValid then
        match readWord s.phase x.reqData with
        | .ok i => exec i { s with inputs := xs }
        | .error _ => .next (settle (badRequest { s with inputs := xs }))
      else .next (stepWithoutWord x { s with inputs := xs })
  else .refused .unusableConfiguration

/-- The sample that offers a request word and nothing else. -/
def offerWord (w : ReqWord) : PortIn where
  rst := false
  reqValid := true
  reqData := w
  rspReady := false
  gpio := .levels false false
  linger := false

/-- `s` with the word offered at its next edge, in the phase that takes it: `P_IDLE` for a legal
header; for any other word a burst of one character, `P_PAYLOAD` (log 14). -/
def State.withFetchWord (s : State) (nbits w : Nat) : State :=
  let word := tableWord nbits w
  match decodeHeader word with
  | .ok _ => { s with phase := .idle, inputs := offerWord word :: s.inputs }
  | .error _ =>
    { s with phase := .payload, reqr := encode (.wrs 1), k := 1#32, inputs := offerWord word :: s.inputs }

end Sys2Proof.Machine
end

