-- ==== Sys2Proof/Safety.lean ====
section
/-! DEFINITION. The terms claims are made in: the other agents' behaviour, the traces the spec
writes out, and the invariant of the machine. Nothing here is used by the machine. -/

namespace Sys2Proof.Machine

/-! ## The other agents -/

/-- `rst` is not asserted in the samples to come (R137: claims are about runs without a reset
during an operation). -/
abbrev NoReset (s : State) : Prop := ∀ x ∈ s.inputs, x.rst = false

/-- A sample of prompt agents: no reset, a GPIO access layer tied off as R129 says, a host that
takes the response at once, and no phase lasting beyond its minimum. -/
def prompt (x : PortIn) : Bool := !x.rst && !x.linger && x.rspReady && decide (x.gpio = .tied)

/-- The next `n` samples are there, and are prompt. -/
abbrev PromptFor (n : Nat) (s : State) : Prop :=
  n ≤ s.inputs.length ∧ ∀ x ∈ s.inputs.take n, prompt x = true

/-- A sample at which a request word is offered and the agents are prompt otherwise. -/
def offerPrompt (w : ReqWord) : PortIn where
  rst := false
  reqValid := true
  reqData := w
  rspReady := true
  gpio := .tied
  linger := false

/-! ## Traces (R73, R107) -/

/-- The least length of one transmission in edges: the two waits and six untimed phases (R152). -/
def transmissionCycles (c : Config) : Nat := nSetup c + nPulse c + 6

/-- R73: the events of one transmission of `v`, its two waits `t1` and `t2`, and the answer to its
release (R76 for `fail`). -/
def sent (v : Byte) (dataMode : Bool) (t1 t2 : Nat) (a : Answer) : List Event :=
  [.acq .ok, .pin (frameBits dataMode 0#8), .pin (frameBits dataMode v), .wait t1,
   .pin (eBit ||| frameBits dataMode v), .wait t2, .pin (frameBits dataMode v), .pin 0x000#11, .rel a]

/-- Several successful transmissions of one byte, by the lengths of their waits. -/
def sentAll (v : Byte) (dataMode : Bool) (ts : List (Nat × Nat)) : List Event :=
  ts.flatMap fun t => sent v dataMode t.1 t.2 .ok

/-- Both waits of a transmission keep their lower bounds (R75). -/
abbrev LongEnough (c : Config) (t : Nat × Nat) : Prop := nSetup c ≤ t.1 ∧ nPulse c ≤ t.2

/-- The delivered entry of a transmission of `v` (R73): RW is low always. -/
def sentFrame (v : Byte) (dataMode : Bool) : Frame where
  rs := dataMode
  rw := false
  d := v

/-- The events of steps 1 to 3 of `INIT`, with the answer to the release (R107). -/
def configured (a : Answer) : List Event := [.acq .ok, .oe 0x7FF#11, .pin 0x000#11, .rel a]

/-- The delivered list a trace shows, by R8 (b): one entry for every interval in which E is high,
closed by the `pin` event that lowers it. `v` is the vector before the first event. -/
def shown : Pins → List Event → List Frame
  | _, [] => []
  | v, .pin w :: es =>
    if level v .e && !level w .e then presented v :: shown w es else shown w es
  | v, .acq _ :: es => shown v es
  | v, .rel _ :: es => shown v es
  | v, .oe _ :: es => shown v es
  | v, .wait _ :: es => shown v es
  | v, .rsp _ :: es => shown v es

/-- The waits of a trace keep their lower bounds (R75): a wait before E rises is a setup wait, any
other a pulse wait. -/
def waitsKept (c : Config) : List Event → Bool
  | [] => true
  | .wait t :: .pin v :: es =>
    (if level v .e then decide (nSetup c ≤ t) else decide (nPulse c ≤ t)) && waitsKept c (.pin v :: es)
  | .wait _ :: _ => false
  | .acq _ :: es => waitsKept c es
  | .rel _ :: es => waitsKept c es
  | .oe _ :: es => waitsKept c es
  | .pin _ :: es => waitsKept c es
  | .rsp _ :: es => waitsKept c es

/-- How many responses a trace holds. -/
def responses (es : List Event) : Nat :=
  es.countP fun e => match e with
    | .rsp _ => true
    | .acq _ | .rel _ | .oe _ | .pin _ | .wait _ => false

/-! ## The bytes of the operations (R54, R59), as 8-bit words -/

/-- The byte and data mode of an operation of one transmission; none where the operand is outside
[0,255] and for the other operations. -/
def singleByte : Instr → Option (Byte × Bool)
  | .clr => some (0x01#8, false)
  | .home => some (0x02#8, false)
  | .fmt twoLines font5x11 =>
    some (0x30#8 ||| (if twoLines then 0x08#8 else 0#8) ||| (if font5x11 then 0x04#8 else 0#8), false)
  | .disp on cursor blink =>
    some (0x08#8 ||| (if on then 0x04#8 else 0#8) ||| (if cursor then 0x02#8 else 0#8)
      ||| (if blink then 0x01#8 else 0#8), false)
  | .pos col secondLine =>
    if 0 ≤ col ∧ col ≤ 255 then
      some (0x80#8 ||| (if secondLine then 0x40#8 else 0#8) ||| BitVec.ofInt 8 col, false)
    else none
  | .tx value dataMode =>
    if 0 ≤ value ∧ value ≤ 255 then some (BitVec.ofInt 8 value, dataMode) else none
  | .init | .cur _ | .cul _ | .wrs _ | .chr _ => none

/-- The byte of a repeated command and its count operand. -/
def moveByte : Instr → Option (Byte × Int)
  | .cur n => some (0x14#8, n)
  | .cul n => some (0x10#8, n)
  | .init | .clr | .home | .fmt _ _ | .disp _ _ _ | .pos _ _ | .wrs _ | .tx _ _ | .chr _ => none

/-! ## The invariant -/

/-- The machine between operations: not in one, session closed, all lines low (R25). -/
abbrev Idle (s : State) : Prop := s.phase = .idle ∧ s.ses = false ∧ s.pin = 0x000#11

/-- The machine waiting for a payload word of a burst that has not failed (R57, R98). -/
abbrev InText (s : State) : Prop :=
  s.phase = .payload ∧ s.ses = false ∧ s.pin = 0x000#11 ∧ inBurst s = true ∧ s.k ≠ 0#32

/-- The phases in which `SES` is 1: from a successful `Acquire()` to the next `Release()` (R15). -/
def holdsSession : Phase → Bool
  | .cfgoe | .cfglow | .select | .drive | .setup | .high | .fall | .reset | .rel => true
  | .idle | .payload | .drain | .acq | .rsp => false

/-- The level of every line in every phase (R73, R79, R107 (d)). -/
def phasePins (s : State) : Pins :=
  match s.phase with
  | .drive => frameBits s.dm 0#8
  | .setup | .fall => frameBits s.dm s.val
  | .high => eBit ||| frameBits s.dm s.val
  | .idle | .payload | .drain | .acq | .cfgoe | .cfglow | .select | .reset | .rel | .rsp => 0x000#11

/-- The phases of a transmission in which the lines must be driven. -/
def inTransmission : Phase → Bool
  | .select | .drive | .setup | .high | .fall | .reset => true
  | .idle | .payload | .drain | .acq | .cfgoe | .cfglow | .rel | .rsp => false

/-- What holds in every state a run reaches. -/
structure Coherent (s : State) : Prop where
  /-- `SES` is 1 exactly in the phases that hold the session (R15, R25). -/
  session : s.ses = holdsSession s.phase
  /-- The lines carry what the phase says (R25, R73, R79). -/
  pins : s.pin = phasePins s
  /-- The enables are all 0 or all 1 (R12). -/
  enables : s.oe = 0x000#11 ∨ s.oe = 0x7FF#11
  /-- Once initialised, and whenever a byte is being signalled, every line is driven (R106, R107). -/
  driven : s.initf = true ∨ inTransmission s.phase = true ∨ s.phase = .cfglow ∨ s.phase = .rel → s.oe = 0x7FF#11
  /-- A transmission's session is asked for only with the lines driven (R107: `INIT` configures them first). -/
  asking : s.phase = .acq → configuring s = false → s.oe = 0x7FF#11
  /-- Only `INIT` asks for the session, or holds it, in an uninitialised machine (R106). -/
  guardPassed : s.phase = .acq ∨ holdsSession s.phase = true → decodeHeader s.reqr ≠ .ok .init → s.initf = true
  /-- `INIT`'s own session is that of its steps 1 to 3 (R107). -/
  config : s.phase = .cfgoe ∨ s.phase = .cfglow → configuring s = true
  /-- `TMR` fits its `TMRW` bits (R19). -/
  timer : s.tmr < 2 ^ tmrWidth s.cfg
  /-- The setup wait in progress cannot end short (R75). -/
  setupWait : s.phase = .setup → nSetup s.cfg ≤ s.waited + s.tmr
  /-- Nor can the pulse wait (R75). -/
  pulseWait : s.phase = .high → nPulse s.cfg ≤ s.waited + s.tmr
  /-- A phase that takes payload words is in a `WRS` burst with words still to take (R57). -/
  burst : s.phase = .payload ∨ s.phase = .drain → inBurst s = true ∧ s.k ≠ 0#32
  /-- Only an initialised machine takes characters (R98, R106). -/
  text : s.phase = .payload → s.initf = true
  /-- A drain has an error to report (R57, R98). -/
  drained : s.phase = .drain → s.stat ≠ .ok

end Sys2Proof.Machine
end

