-- ==== Sys2Proof/Certificates/Slice0/Obligations.lean ====
section
/-! DEFINITION. The statements about LCDTX. Where a statement is about a whole operation, the other
agents' part is in its hypotheses: `PromptFor` for agents that answer at once, and any samples
without reset otherwise. Counts of edges, and where an edge falls inside a phase, are the model's
choice (log 5, log 6). Clocks are of whole hertz (log 4), and the agents a list of samples (log 1). -/

open Sys2Proof Sys2Proof.Machine

/-! ## Encoding and decoding -/

/-- Decoding the word of a well-formed header request gives the request back (R47 to R50, R58). -/
def Obligations.DecodeOfEncodeIsTheRequest : Prop :=
  ∀ i : Instr, i.wellFormed = true → i.isHeader = true → decodeHeader (encode i) = .ok i

/-- A header word has one meaning, a well-formed header request whose word it is. -/
def Obligations.EncodeOfDecodeIsTheWord : Prop :=
  ∀ (w : ReqWord) (i : Instr), decodeHeader w = .ok i →
    encode i = w ∧ i.wellFormed = true ∧ i.isHeader = true

/-- R55: the illegal header words, clause by clause, and the answer `BadRequest` with no other
effect, one word consumed and no payload word asked for. That this is a next state and not a refusal
of the model is its reading (log 13), and that the response event is recorded on entry to `P_RSP`
its choice (log 10). -/
def Obligations.IllegalHeadersAnswerBadRequest : Prop :=
  (∀ w : ReqWord, (∃ e, decodeHeader w = .error e) ↔
    ((opField w = 0#8 ∨ 0x0B#8 ≤ opField w) ∨
     (flField w &&& ~~~(if opField w = 0x04#8 then 0x0C#8 else if opField w = 0x05#8 then 0x07#8
        else if opField w = 0x08#8 then 0x40#8 else if opField w = 0x0A#8 then 0x01#8 else 0#8) ≠ 0#8) ∨
     (argField w ≠ 0#32 ∧ 0x01#8 ≤ opField w ∧ opField w ≤ 0x05#8) ∨
     (opField w = 0x09#8 ∧ (argField w).toInt < 0))) ∧
  (∀ (s : State) (x : PortIn) (xs : List PortIn) (e : Illegal),
    usableConfig s.cfg = true → s.inputs = x :: xs → x.rst = false → x.reqValid = true →
    s.phase = .idle → decodeHeader x.reqData = .error e →
    clockEdge x { s with inputs := xs } =
      { s with inputs := xs, stat := .badRequest, phase := .rsp, trace := s.trace ++ [.rsp .badRequest] } ∧
    step s = .next (settle { s with inputs := xs, stat := .badRequest, phase := .rsp,
                                    trace := s.trace ++ [.rsp .badRequest] }))

/-- R51: any word is a payload word, by its bits 31:0 alone; and in `P_PAYLOAD` and `P_DRAIN` a
word is never decoded as a header. -/
def Obligations.PayloadWordsAreReadByTheirLowBits : Prop :=
  (∀ hi hi' : BitVec 16, ∀ cp : Arg, decodePayload (hi ++ cp) = .chr cp.toInt ∧
      decodePayload (hi' ++ cp) = decodePayload (hi ++ cp)) ∧
  (∀ (p : Phase) (w : ReqWord), p = .payload ∨ p = .drain → readWord p w = .ok (decodePayload w)) ∧
  (∀ cp : Int, fitsArg cp = true → decodePayload (encode (.chr cp)) = .chr cp)

/-- Words written out by hand from R47 to R50 decode to the operations they stand for. -/
def Obligations.WordsWrittenByHandDecode : Prop :=
  decodeHeader 0x010000000000#48 = .ok .init ∧ decodeHeader 0x040800000000#48 = .ok (.fmt true false) ∧
  decodeHeader 0x050600000000#48 = .ok (.disp true true false) ∧
  decodeHeader 0x0600FFFFFFFE#48 = .ok (.cur (-2)) ∧ decodeHeader 0x084000000005#48 = .ok (.pos 5 true) ∧
  decodeHeader 0x090000000002#48 = .ok (.wrs 2) ∧ decodeHeader 0x0A0100000041#48 = .ok (.tx 0x41 true) ∧
  decodeHeader 0x0900FFFFFFFF#48 = .error .length ∧ decodePayload 0xFFFF00000041#48 = .chr 0x41

/-- R61: each pseudo-instruction is an exact abbreviation; and a string is assembled as its header
and one word per character, in order (R60). -/
def Obligations.PseudoInstructionsAreAbbreviations : Prop :=
  (∀ c : Int, assemble (.wrc c) = assemble (.wrs [c])) ∧
  (∀ v : Int, assemble (.cmd v) = assemble (.tx v false)) ∧
  (∀ v : Int, assemble (.dat v) = assemble (.tx v true)) ∧
  (∀ cps : List Int, cps.length ≤ 2147483647 → (∀ c ∈ cps, fitsArg c = true) →
    assemble (.wrs cps) =
      some (header 0x09#8 0#8 (BitVec.ofNat 32 cps.length) :: cps.map fun c => header 0#8 0#8 (BitVec.ofInt 32 c)))

/-! ## The step -/

/-- A step in `P_IDLE` at which a word is offered runs the request the word decodes to, after the
edge's sample is taken. -/
def Obligations.StepRunsTheDecodedHeader : Prop :=
  ∀ (s : State) (x : PortIn) (xs : List PortIn) (i : Instr),
    usableConfig s.cfg = true → s.inputs = x :: xs → x.rst = false → x.reqValid = true →
    s.phase = .idle → decodeHeader x.reqData = .ok i → step s = exec i { s with inputs := xs }

/-- A step in `P_PAYLOAD` or `P_DRAIN` at which a word is offered runs it as a payload word. -/
def Obligations.StepRunsThePayloadWord : Prop :=
  ∀ (s : State) (x : PortIn) (xs : List PortIn),
    usableConfig s.cfg = true → s.inputs = x :: xs → x.rst = false → x.reqValid = true →
    s.phase = .payload ∨ s.phase = .drain →
    step s = exec (decodePayload x.reqData) { s with inputs := xs }

/-- The step is a whole number of rising clock edges of the block, one sample each: the grain of a
step is the model's choice (log 2). -/
def Obligations.StepIsAWholeNumberOfClockEdges : Prop :=
  ∀ s t : State, step s = .next t →
    ∃ n, n ≤ s.inputs.length ∧ t = clockEdges n s ∧ t.inputs = s.inputs.drop n ∧ (s.inputs ≠ [] → 1 ≤ n)

/-- The only thing that stops the machine is an unusable configuration, and it stops every step
(R138; log 16). -/
def Obligations.OnlyAnUnusableConfigurationIsRefused : Prop :=
  ∀ s : State,
    (usableConfig s.cfg = false → step s = .refused .unusableConfiguration) ∧
    (usableConfig s.cfg = true → ∃ t, step s = .next t ∧ t.cfg = s.cfg) ∧
    (usableConfig s.cfg = true ↔
      0 < s.cfg.clkHz ∧
      (∀ r q : Role, boundLine s.cfg r = boundLine s.cfg q → r = q) ∧
      (∀ r : Role, boundLine s.cfg r ∈ s.cfg.outputLines))

/-! ## Reset -/

/-- R135 with R136: at every edge with `rst = 1`, whatever the block was doing and whatever else is
offered, the registers take their reset values and the outputs are those of `P_IDLE`. -/
def Obligations.ResetWinsAtEveryEdge : Prop :=
  ∀ (x : PortIn) (s : State), x.rst = true →
    (clockEdge x s).initf = false ∧ (clockEdge x s).oe = 0x000#11 ∧ (clockEdge x s).pin = 0x000#11 ∧
    (clockEdge x s).ses = false ∧ (clockEdge x s).phase = .idle ∧
    (outputs (clockEdge x s)).sesReq = false ∧ (outputs (clockEdge x s)).rspValid = false ∧
    (outputs (clockEdge x s)).reqReady = true

/-- The machine right after reset has the values R28 gives, and is coherent. That its configuration is
usable is the model's choice of one (log 4). -/
def Obligations.ResetStateHasTheSpecsValues : Prop :=
  State.reset.initf = false ∧ State.reset.oe = 0x000#11 ∧ State.reset.pin = 0x000#11 ∧
  State.reset.ses = false ∧ State.reset.phase = .idle ∧ Coherent State.reset ∧ usableConfig State.reset.cfg = true

/-- R137: reset in the middle of an operation abandons it without a response, with the lines
released and the session dropped without its handshake; an E pulse that it cuts delivers any value
or nothing, whatever the free value is. That such a pulse's entry is recorded at the cut, and that
nothing is added where E was low, is the model's choice (log 11). -/
def Obligations.ResetAbandonsTheOperation : Prop :=
  ∀ (x : PortIn) (s : State), x.rst = true →
    (clockEdge x s).oe = 0x000#11 ∧ (clockEdge x s).phase = .idle ∧ (clockEdge x s).trace = s.trace ∧
    (outputs (clockEdge x s)).sesReq = false ∧
    (level s.pin .e = false → (clockEdge x s).delivered = s.delivered) ∧
    (level s.pin .e = true → (clockEdge x s).delivered = s.delivered ∨
      ∃ f : Frame, (clockEdge x s).delivered = s.delivered ++ [f])

/-! ## Invariants and rules of the whole machine -/

/-- `Coherent` holds of every state a step leads to from a state in which it holds. Three of its
clauses rest on choices of the model: the line levels in a named phase (log 5), `K` in the session
of `INIT` steps 1 to 3 (log 7), and `STAT` during a drain (log 9). -/
def Obligations.EveryStepKeepsTheInvariant : Prop :=
  ∀ s t : State, Coherent s → step s = .next t → Coherent t

/-- `Coherent` is kept by every single clock edge, so it holds in the middle of an operation too. Three
of its clauses rest on choices of the model: the line levels in a named phase (log 5), `K` in the
session of `INIT` steps 1 to 3 (log 7), and `STAT` during a drain (log 9). -/
def Obligations.EveryClockEdgeKeepsTheInvariant : Prop :=
  ∀ (x : PortIn) (s : State), Coherent s → Coherent (clockEdge x s)

/-- R25: whenever a run is in `P_IDLE`, the session is closed, and lines once configured are all low. -/
def Obligations.IdleMeansClosedAndLow : Prop :=
  ∀ (n : Nat) (s : State), Coherent s → (clockEdges n s).phase = .idle →
    (clockEdges n s).ses = false ∧
    ((clockEdges n s).oe ≠ 0x000#11 → (clockEdges n s).oe = 0x7FF#11 ∧ (clockEdges n s).pin = 0x000#11)

/-- R26: `OE` and `PIN` change only at an edge at which `SES = 1`, or at reset. -/
def Obligations.LinesChangeOnlyInASession : Prop :=
  ∀ (x : PortIn) (s : State),
    (clockEdge x s).oe ≠ s.oe ∨ (clockEdge x s).pin ≠ s.pin → s.ses = true ∨ x.rst = true

/-- R42 and R74: no data, RS or RW line changes while E is high, nor at the edge at which E falls,
nor at the edge at which E rises; RW is low throughout. -/
def Obligations.LinesAreStableAroundThePulse : Prop :=
  ∀ (x : PortIn) (s : State), Coherent s → x.rst = false →
    level s.pin .rw = false ∧
    (level s.pin .e = true ∨ level (clockEdge x s).pin .e = true →
      ∀ r : Role, r ≠ .e → level (clockEdge x s).pin r = level s.pin r)

/-- R105: the mode after reset is `Uninitialized`; an edge without reset never leaves `Initialized`;
and the only way into it is the last step of an `INIT` that completes without error. -/
def Obligations.OnlyInitInitialises : Prop :=
  (∀ (x : PortIn) (s : State), x.rst = true → (clockEdge x s).initf = false) ∧
  (∀ (x : PortIn) (s : State), x.rst = false → s.initf = true → (clockEdge x s).initf = true) ∧
  (∀ (x : PortIn) (s : State), s.initf = false → (clockEdge x s).initf = true →
    s.phase = .rel ∧ decodeHeader s.reqr = .ok .init ∧ relAnswer x.gpio false = some .ok ∧
    (clockEdge x s).stat = .ok ∧ (clockEdge x s).phase = .rsp)

/-- Each input port matters only where the spec says it is read: the request channel in the phases
of R46, `rsp_ready` in `P_RSP` (R52), the session's answers in `P_ACQ` and `P_REL` (R126, R127). The
bit `linger` is the model's own (log 6). -/
def Obligations.PortsAreReadOnlyInTheirPhases : Prop :=
  ∀ (x y : PortIn) (s : State), x.rst = y.rst → x.linger = y.linger →
    ((outputs s).reqReady = true → x.reqValid = y.reqValid ∧ x.reqData = y.reqData) →
    (s.phase = .rsp → x.rspReady = y.rspReady) →
    (s.phase = .acq ∨ s.phase = .rel → x.gpio = y.gpio) →
    clockEdge x s = clockEdge y s

/-- R75: no wait of the trace is ever shorter than its lower bound, in any run. -/
def Obligations.WaitsAreNeverShort : Prop :=
  ∀ s t : State, Coherent s → waitsKept s.cfg s.trace = true → step s = .next t →
    waitsKept t.cfg t.trace = true

/-- R8 (b): what an operation adds to the delivered list is what its event trace shows, one entry
for every interval in which E is high. That an entry is recorded at E's fall is the model's choice
(log 11). -/
def Obligations.DeliveredIsWhatTheTraceShows : Prop :=
  ∀ (i : Instr) (s t : State), Coherent s → takesWord s.phase = true → (i.isHeader = true ↔ s.phase = .idle) →
    NoReset s → exec i s = .next t →
    ∃ es, t.trace = s.trace ++ es ∧ t.delivered = s.delivered ++ shown s.pin es

/-- R41, R52: an accepted header, with the payload words of its burst, produces exactly one response.
A header, and a payload word of a burst, adds one response exactly when it leads to `P_RSP` or on to
`P_IDLE`, and none while anything of the operation is still to come. That the response event is
recorded on entry to `P_RSP` is the model's choice (log 10). -/
def Obligations.OneResponsePerHeader : Prop :=
  ∀ (i : Instr) (s t : State),
    (i.isHeader = true ∧ s.phase = .idle) ∨ ((∃ c, i = .chr c) ∧ (InText s ∨ s.phase = .drain)) →
    NoReset s → exec i s = .next t →
    (t.phase = .idle ∨ t.phase = .rsp → responses t.trace = responses s.trace + 1) ∧
    (t.phase ≠ .idle → t.phase ≠ .rsp → responses t.trace = responses s.trace)

/-! ## Ports, answers and waits -/

/-- R126: the answer to `Acquire()` at an edge in `P_ACQ`, `ses_err` first; and the error of R115,
whose code `STAT` has at that edge, in a burst with words left too (log 9). -/
def Obligations.AcquireAnswers : Prop :=
  ∀ (x : PortIn) (s : State), s.phase = .acq → x.rst = false →
    (outputs s).sesReq = true ∧
    (errOf x.gpio = true →
      (clockEdge x s).ses = s.ses ∧ (outputs (clockEdge x s)).sesReq = false ∧
      (clockEdge x s).stat = .deviceUnavailable ∧
      ∃ es, (clockEdge x s).trace = s.trace ++ .acq .fail :: es) ∧
    (errOf x.gpio = false → gntOf x.gpio true = true →
      (clockEdge x s).ses = true ∧ (clockEdge x s).trace = s.trace ++ [.acq .ok] ∧
      (outputs (clockEdge x s)).sesReq = true) ∧
    (errOf x.gpio = false → gntOf x.gpio true = false → clockEdge x s = s)

/-- R127: the answer to `Release()` at an edge in `P_REL`; `SES` is 0 after either; and the error of
R115, whose code `STAT` has at that edge, in a burst with words left too (log 9). -/
def Obligations.ReleaseAnswers : Prop :=
  ∀ (x : PortIn) (s : State), s.phase = .rel → x.rst = false →
    (outputs s).sesReq = false ∧
    (errOf x.gpio = true →
      (clockEdge x s).ses = false ∧ (clockEdge x s).stat = .deviceUnavailable ∧ (clockEdge x s).pin = s.pin ∧
      ∃ es, (clockEdge x s).trace = s.trace ++ .rel .fail :: es) ∧
    (errOf x.gpio = false → gntOf x.gpio false = false →
      (clockEdge x s).ses = false ∧ (clockEdge x s).pin = s.pin ∧
      ∃ es, (clockEdge x s).trace = s.trace ++ .rel .ok :: es) ∧
    (errOf x.gpio = false → gntOf x.gpio false = true → clockEdge x s = s)

/-- R149: a GPIO access layer that never answers hangs the block, for any number of edges. -/
def Obligations.SilentGpioLayerHangsTheBlock : Prop :=
  ∀ (s t : State), usableConfig s.cfg = true → NoReset s →
    (s.phase = .acq ∧ ∀ x ∈ s.inputs, errOf x.gpio = false ∧ gntOf x.gpio true = false) ∨
    (s.phase = .rel ∧ ∀ x ∈ s.inputs, errOf x.gpio = false ∧ gntOf x.gpio false = true) →
    step s = .next t → t = { s with inputs := [] }

/-- R150, with R46, R52 and R122: in `P_RSP` the block waits for `rsp_ready` without limit and accepts
no request; taking the response changes nothing but `PHASE`, the trace holding the response since
the entry to `P_RSP` (log 10); the response channel carries the numbers of R52; and `req_ready` is 1
exactly in `P_IDLE`, `P_PAYLOAD` and `P_DRAIN`, `BUSY` everywhere but in `P_IDLE` (R21). -/
def Obligations.ResponseIsHeldUntilTaken : Prop :=
  (∀ (s t : State), usableConfig s.cfg = true → NoReset s → s.phase = .rsp →
    (∀ x ∈ s.inputs, x.rspReady = false) → step s = .next t → t = { s with inputs := [] }) ∧
  (∀ (x : PortIn) (s : State), s.phase = .rsp → x.rst = false → x.rspReady = true →
    clockEdge x s = { s with phase := .idle }) ∧
  (∀ s : State, ((outputs s).rspValid = true ↔ s.phase = .rsp) ∧
    ((outputs s).reqReady = true ↔ s.phase = .idle ∨ s.phase = .payload ∨ s.phase = .drain) ∧
    (busy s = true ↔ s.phase ≠ .idle) ∧
    (s.stat = .ok → (outputs s).rspCode = 0#3) ∧ (s.stat = .deviceUnavailable → (outputs s).rspCode = 1#3) ∧
    (s.stat = .notInitialized → (outputs s).rspCode = 2#3) ∧
    (s.stat = .invalidCommand → (outputs s).rspCode = 3#3) ∧ (s.stat = .badRequest → (outputs s).rspCode = 4#3))

/-- R19: `TMR` is loaded with `N_SETUP` on entry to `P_SETUP` and with `N_PULSE` on entry to
`P_HIGH`, counts down by one per cycle there, and the phase is left only when it reaches 0. That the
edge at which it reaches 0 is the one that may leave the phase is the model's choice (log 6). -/
def Obligations.TimerCountsTheWaits : Prop :=
  ∀ (x : PortIn) (s : State), x.rst = false →
    ((clockEdge x s).phase = .setup → s.phase ≠ .setup → (clockEdge x s).tmr = nSetup s.cfg) ∧
    ((clockEdge x s).phase = .high → s.phase ≠ .high → (clockEdge x s).tmr = nPulse s.cfg) ∧
    (s.phase = .setup ∨ s.phase = .high →
      ((clockEdge x s).phase = s.phase → (clockEdge x s).tmr = s.tmr - 1) ∧
      ((clockEdge x s).phase ≠ s.phase → s.tmr ≤ 1)) ∧
    (s.phase ≠ .setup → s.phase ≠ .drive → s.phase ≠ .high → (clockEdge x s).tmr = s.tmr)

/-- R4: the counts are the least numbers of cycles, at least 1, that last `T_SETUP_MIN` and
`T_PULSE_MIN` at the declared clock, and `TMRW` bits hold them. Clocks of whole hertz are the
model's choice (log 4). -/
def Obligations.CycleCountsAreTheCeilings : Prop :=
  ∀ c : Config, 0 < c.clkHz →
    (500000 * c.clkHz ≤ nSetup c * 1000000000 ∧ ∀ n, 1 ≤ n → 500000 * c.clkHz ≤ n * 1000000000 → nSetup c ≤ n) ∧
    (500 * c.clkHz ≤ nPulse c * 1000000000 ∧ ∀ n, 1 ≤ n → 500 * c.clkHz ≤ n * 1000000000 → nPulse c ≤ n) ∧
    1 ≤ nPulse c ∧ nPulse c ≤ nSetup c ∧ nSetup c < 2 ^ tmrWidth c

/-- R12, R14, R128, R124: a line level that the model determines is the level `PIN` has for the role
bound to the line, its output enabled; with a usable binding every enabled role's line is
determined, and carries `PIN`, unless an acquisition has failed since the last successful
transmission; and right after a failed acquisition none is determined (log 17). -/
def Obligations.DrivenLinesCarryPin : Prop :=
  (∀ (s : State) (line : Nat) (b : Bool), lineLevel s line = some b →
    ∃ r : Role, boundLine s.cfg r = line ∧ level s.oe r = true ∧ b = level s.pin r) ∧
  (∀ (s : State) (r : Role), level s.oe r = true → padsKnown s.trace = true →
    padLevel s r = some (level s.pin r)) ∧
  (∀ (s : State) (r : Role), usableConfig s.cfg = true → level s.oe r = true → padsKnown s.trace = true →
    lineLevel s (boundLine s.cfg r) = some (level s.pin r)) ∧
  (∀ (s : State) (r : Role), padLevel (s.emit (.acq .fail)) r = none)

/-! ## The engine -/

/-- R70, R71: the bit string, and the line each of its characters drives; outside [0,255] there is
none. -/
def Obligations.StringIndexDrivesTheReversedLine : Prop :=
  (∀ n : Int, 0 ≤ n → n ≤ 255 → ∃ cs, bitString n = .ok cs ∧ cs.length = 8 ∧
    ∀ i, i < 8 → (cs[i]? = some (if n.toNat.testBit (7 - i) then '1' else '0')) ∧
      ∀ v : Pins, level (writeLevels v (driveWrites (byteOf n))) (lineOfStringIndex i)
        = decide (cs[i]? = some '1')) ∧
  (∀ n : Int, n < 0 ∨ 255 < n → bitString n = .error .invalidCommand)

/-- R97, R100: the composed value of `POS` is in [0,255] exactly when `col` is, and is then the
8-bit OR; the values of the other commands are those of R93 to R96. -/
def Obligations.ComposedValuesAreTheControlBytes : Prop :=
  (∀ (col : Int) (b : Bool), inByteRange (posValue col b) = inByteRange col) ∧
  (∀ (i : Instr) (v : Byte) (d : Bool), singleByte i = some (v, d) →
    match i with
    | .clr => clrValue = Int.ofNat v.toNat
    | .home => homeValue = Int.ofNat v.toNat
    | .fmt t f => fmtValue t f = Int.ofNat v.toNat
    | .disp o c b => dispValue o c b = Int.ofNat v.toNat
    | .pos col b => posValue col b = Int.ofNat v.toNat
    | .tx value _ => value = Int.ofNat v.toNat
    | .init | .cur _ | .cul _ | .wrs _ | .chr _ => False) ∧
  curValue = 0x14 ∧ culValue = 0x10

/-- R72 step 1, R76: a value outside [0,255] answers `InvalidCommand` with no session and no pin
write: `TX` and `POS` after `INIT`, whatever the agents do. That `REQR` takes the refused word is the
model's reading (log 8), and that the response event is recorded on entry to `P_RSP` its choice
(log 10). -/
def Obligations.OutOfRangeIsInvalidCommand : Prop :=
  ∀ (i : Instr) (s : State), s.initf = true →
    ((∃ v d, i = .tx v d ∧ (v < 0 ∨ 255 < v)) ∨ (∃ c b, i = .pos c b ∧ (c < 0 ∨ 255 < c))) →
    exec i s = .next (settle { s with reqr := encode i, stat := .invalidCommand, phase := .rsp,
                                      trace := s.trace ++ [.rsp .invalidCommand] })

/-- R106: before `INIT` every other operation is refused with `NotInitialized`, with no session, no
pin write and no change but `STAT` and `PHASE` beside `REQR` (log 8); the payload words of a string
that has any are still taken, and discarded, `K` counting them and `STAT` written before them
(log 9). The response event stands in the trace from the entry to `P_RSP` (log 10). -/
def Obligations.GuardRefusesBeforeInit : Prop :=
  ∀ (i : Instr) (s : State), s.initf = false → i.wellFormed = true → i.isHeader = true → i ≠ .init →
    exec i s = .next (settle
      (match i with
       | .wrs len =>
         if len = 0 then { s with reqr := encode i, stat := .notInitialized, phase := .rsp,
                                  trace := s.trace ++ [.rsp .notInitialized] }
         else { s with reqr := encode i, k := BitVec.ofInt 32 len, stat := .notInitialized, phase := .drain }
       | _ => { s with reqr := encode i, stat := .notInitialized, phase := .rsp,
                       trace := s.trace ++ [.rsp .notInitialized] }))

/-- R120: raising an error changes nothing but `STAT` and `PHASE` (and the trace, where the
response is put on the channel at once: recorded on entry to `P_RSP`, log 10); a burst with words
still to take is drained first, `STAT` already written (log 9). -/
def Obligations.RaisingAnErrorEndsTheOperation : Prop :=
  ∀ (c : Status) (s : State),
    (inBurst s = true ∧ s.k ≠ 0#32 → raise c s = { s with stat := c, phase := .drain }) ∧
    (inBurst s = false ∨ s.k = 0#32 →
      raise c s = { s with stat := c, phase := .rsp, trace := s.trace ++ [.rsp c] })

/-! ## Completion: what each operation does with prompt agents -/

/-- `CLR`, `HOME`, `FMT`, `DISP`, `POS` with `col` in [0,255] and `TX` with `value` in [0,255]
complete: one transmission of the operation's byte, R73's events, response `OK` (R80, R91 to R94,
R97). Where an edge falls inside a phase, and so how many edges are taken, is the model's choice
(log 5, log 6). -/
def Obligations.SingleCommandsComplete : Prop :=
  ∀ (i : Instr) (v : Byte) (d : Bool) (s : State), singleByte i = some (v, d) → Idle s → s.initf = true →
    PromptFor (transmissionCycles s.cfg + 1) s →
    exec i s = .next { s with
      reqr := encode i, val := v, dm := d, tmr := 0, waited := 0, stat := .ok,
      inputs := s.inputs.drop (transmissionCycles s.cfg + 1),
      trace := s.trace ++ sent v d (nSetup s.cfg) (nPulse s.cfg) .ok ++ [.rsp .ok],
      delivered := s.delivered ++ [sentFrame v d] }

/-- `CUR` and `CUL` complete: `n` transmissions of the byte, each with its own session and waits;
none for `n` at most 0 (R95, R96). Where an edge falls inside a phase, and so how many edges are
taken, is the model's choice (log 5, log 6). -/
def Obligations.RepeatedCommandsComplete : Prop :=
  ∀ (i : Instr) (v : Byte) (n : Int) (s : State), moveByte i = some (v, n) → i.wellFormed = true →
    Idle s → s.initf = true → PromptFor (n.toNat * transmissionCycles s.cfg + 1) s →
    exec i s = .next { s with
      reqr := encode i, k := 0#32, stat := .ok,
      val := if 0 < n then v else s.val, dm := if 0 < n then false else s.dm,
      tmr := if 0 < n then 0 else s.tmr, waited := if 0 < n then 0 else s.waited,
      inputs := s.inputs.drop (n.toNat * transmissionCycles s.cfg + 1),
      trace := s.trace ++ sentAll v false (List.replicate n.toNat (nSetup s.cfg, nPulse s.cfg)) ++ [.rsp .ok],
      delivered := s.delivered ++ List.replicate n.toNat (sentFrame v false) }

/-- `INIT` completes, in either mode: the events of R107, every line enabled, `INITF` set (R107,
R108). That `K` ends as 1 is the model's choice (log 7), and so is where an edge falls inside a
phase, and with it how many edges are taken (log 5, log 6). -/
def Obligations.InitCompletes : Prop :=
  ∀ s : State, Idle s → PromptFor (4 + 2 * transmissionCycles s.cfg + 1) s →
    exec .init s = .next { s with
      reqr := encode .init, initf := true, oe := 0x7FF#11, k := 1#32, val := 0x02#8, dm := false,
      tmr := 0, waited := 0, stat := .ok,
      inputs := s.inputs.drop (4 + 2 * transmissionCycles s.cfg + 1),
      trace := s.trace ++ configured .ok ++ sent 0x01#8 false (nSetup s.cfg) (nPulse s.cfg) .ok
        ++ sent 0x02#8 false (nSetup s.cfg) (nPulse s.cfg) .ok ++ [.rsp .ok],
      delivered := s.delivered ++ [sentFrame 0x01#8 false, sentFrame 0x02#8 false] }

/-- A `WRS` header completes: a non-empty string waits for its first character with its length in
`K`; the empty string makes no transmission and answers `OK` (R98). -/
def Obligations.StringHeaderCompletes : Prop :=
  ∀ (len : Int) (s : State), (Instr.wrs len).wellFormed = true → s.initf = true →
    (0 < len → exec (.wrs len) s =
      .next { s with reqr := encode (.wrs len), k := BitVec.ofInt 32 len, phase := .payload }) ∧
    (len = 0 → PromptFor 1 s → exec (.wrs len) s =
      .next { s with reqr := encode (.wrs len), k := 0#32, stat := .ok, phase := .idle,
                     inputs := s.inputs.drop 1, trace := s.trace ++ [.rsp .ok] })

/-- A payload word with a code point in [0,255] completes: the character is transmitted with RS
high, and the next word is waited for, or after the last the response is `OK` (R98). Where an edge
falls inside a phase, and so how many edges are taken, is the model's choice (log 5, log 6). -/
def Obligations.CharacterCompletes : Prop :=
  ∀ (c : Int) (s : State), 0 ≤ c → c ≤ 255 → InText s →
    (s.k ≠ 1#32 → PromptFor (transmissionCycles s.cfg) s → exec (.chr c) s = .next { s with
      k := s.k - 1#32, val := BitVec.ofInt 8 c, dm := true, tmr := 0, waited := 0,
      inputs := s.inputs.drop (transmissionCycles s.cfg),
      trace := s.trace ++ sent (BitVec.ofInt 8 c) true (nSetup s.cfg) (nPulse s.cfg) .ok,
      delivered := s.delivered ++ [sentFrame (BitVec.ofInt 8 c) true] }) ∧
    (s.k = 1#32 → PromptFor (transmissionCycles s.cfg + 1) s → exec (.chr c) s = .next { s with
      k := 0#32, val := BitVec.ofInt 8 c, dm := true, tmr := 0, waited := 0, stat := .ok, phase := .idle,
      inputs := s.inputs.drop (transmissionCycles s.cfg + 1),
      trace := s.trace ++ sent (BitVec.ofInt 8 c) true (nSetup s.cfg) (nPulse s.cfg) .ok ++ [.rsp .ok],
      delivered := s.delivered ++ [sentFrame (BitVec.ofInt 8 c) true] })

/-- A payload word with a code point outside [0,255] is `InvalidCommand`: not transmitted, and the
rest of the burst is drained (R98). R98 and R120 write the error after the drain: that `STAT` holds
it before, while `K` counts the words left, is the model's choice (log 9). -/
def Obligations.BadCharacterEndsTheString : Prop :=
  ∀ (c : Int) (s : State), c < 0 ∨ 255 < c → InText s →
    (s.k ≠ 1#32 → exec (.chr c) s =
      .next { s with k := s.k - 1#32, stat := .invalidCommand, phase := .drain }) ∧
    (s.k = 1#32 → PromptFor 1 s → exec (.chr c) s =
      .next { s with k := 0#32, stat := .invalidCommand, phase := .idle,
                     inputs := s.inputs.drop 1, trace := s.trace ++ [.rsp .invalidCommand] })

/-- A payload word in `P_DRAIN` is discarded without effect, whatever it holds; the response with
the stored error follows the last (R57, R98). That `K` counts the drain and that `STAT` holds the
error from before it is the model's choice (log 9). -/
def Obligations.DrainedWordHasNoEffect : Prop :=
  ∀ (c : Int) (s : State), s.phase = .drain →
    (s.k ≠ 1#32 → exec (.chr c) s = .next { s with k := s.k - 1#32 }) ∧
    (s.k = 1#32 → PromptFor 1 s → exec (.chr c) s =
      .next { s with k := 0#32, phase := .idle, inputs := s.inputs.drop 1,
                     trace := s.trace ++ [.rsp s.stat] })

/-! ## What an operation does whatever the agents do -/

/-- R73, R76, R90: whatever the agents do short of a reset, a single-transmission operation that has
ended has done one of three things, and says which. -/
def Obligations.SingleCommandOutcomes : Prop :=
  ∀ (i : Instr) (v : Byte) (d : Bool) (s t : State), singleByte i = some (v, d) → Idle s →
    s.initf = true → NoReset s → exec i s = .next t → t.phase = .idle →
    (t.stat = .deviceUnavailable ∧ t.trace = s.trace ++ [.acq .fail, .rsp .deviceUnavailable] ∧
      t.delivered = s.delivered) ∨
    (∃ t1 t2 a, LongEnough s.cfg (t1, t2) ∧ t.delivered = s.delivered ++ [sentFrame v d] ∧
      t.stat = (if a = .ok then .ok else .deviceUnavailable) ∧
      t.trace = s.trace ++ sent v d t1 t2 a ++ [.rsp t.stat])

/-- R95, R96, R99: whatever the agents do short of a reset, a repeated command that has ended has
made some number of whole transmissions, all `n` of them with `OK`, or has stopped at the first
that failed, the earlier ones standing. -/
def Obligations.RepeatedCommandOutcomes : Prop :=
  ∀ (i : Instr) (v : Byte) (n : Int) (s t : State), moveByte i = some (v, n) → i.wellFormed = true →
    Idle s → s.initf = true → NoReset s → exec i s = .next t → t.phase = .idle →
    ∃ ts : List (Nat × Nat), (∀ p ∈ ts, LongEnough s.cfg p) ∧
      ((ts.length = n.toNat ∧ t.stat = .ok ∧ t.k = 0#32 ∧
          t.trace = s.trace ++ sentAll v false ts ++ [.rsp .ok] ∧
          t.delivered = s.delivered ++ List.replicate n.toNat (sentFrame v false)) ∨
       (ts.length < n.toNat ∧ t.stat = .deviceUnavailable ∧
          t.trace = s.trace ++ sentAll v false ts ++ [.acq .fail, .rsp .deviceUnavailable] ∧
          t.delivered = s.delivered ++ List.replicate ts.length (sentFrame v false)) ∨
       (ts.length < n.toNat ∧ t.stat = .deviceUnavailable ∧ ∃ t1 t2, LongEnough s.cfg (t1, t2) ∧
          t.trace = s.trace ++ sentAll v false ts ++ sent v false t1 t2 .fail ++ [.rsp .deviceUnavailable] ∧
          t.delivered = s.delivered ++ List.replicate (ts.length + 1) (sentFrame v false)))

/-- R109, with R107: whatever the agents do short of a reset, an `INIT` that has ended stopped at one
of the six points of R109's table, nothing rolled back, or completed. -/
def Obligations.InitOutcomes : Prop :=
  ∀ s t : State, Idle s → NoReset s → exec .init s = .next t → t.phase = .idle →
    t.pin = 0x000#11 ∧ t.ses = false ∧
    ∃ es fs, t.trace = s.trace ++ es ++ [.rsp t.stat] ∧ t.delivered = s.delivered ++ fs ∧
      ((t.stat = .deviceUnavailable ∧ t.oe = s.oe ∧ t.initf = s.initf ∧ es = [.acq .fail] ∧ fs = []) ∨
       (t.stat = .deviceUnavailable ∧ t.oe = 0x7FF#11 ∧ t.initf = s.initf ∧ es = configured .fail ∧ fs = []) ∨
       (t.stat = .deviceUnavailable ∧ t.oe = 0x7FF#11 ∧ t.initf = s.initf ∧
          es = configured .ok ++ [.acq .fail] ∧ fs = []) ∨
       (∃ a b, LongEnough s.cfg (a, b) ∧ t.stat = .deviceUnavailable ∧ t.oe = 0x7FF#11 ∧ t.initf = s.initf ∧
          es = configured .ok ++ sent 0x01#8 false a b .fail ∧ fs = [sentFrame 0x01#8 false]) ∨
       (∃ a b, LongEnough s.cfg (a, b) ∧ t.stat = .deviceUnavailable ∧ t.oe = 0x7FF#11 ∧ t.initf = s.initf ∧
          es = configured .ok ++ sent 0x01#8 false a b .ok ++ [.acq .fail] ∧ fs = [sentFrame 0x01#8 false]) ∨
       (∃ a b c d r, LongEnough s.cfg (a, b) ∧ LongEnough s.cfg (c, d) ∧ t.oe = 0x7FF#11 ∧
          t.stat = (if r = .ok then .ok else .deviceUnavailable) ∧
          t.initf = (if r = .ok then true else s.initf) ∧
          es = configured .ok ++ sent 0x01#8 false a b .ok ++ sent 0x02#8 false c d r ∧
          fs = [sentFrame 0x01#8 false, sentFrame 0x02#8 false]))

/-- R98, R99: whatever the agents do short of a reset, a character that has been dealt with was
delivered, or failed at its session and ended the string there; `STAT` holds the error before the
drain of the words that are left (log 9). -/
def Obligations.CharacterOutcomes : Prop :=
  ∀ (c : Int) (s t : State), 0 ≤ c → c ≤ 255 → InText s → NoReset s → exec (.chr c) s = .next t →
    takesWord t.phase = true →
    t.k = s.k - 1#32 ∧ t.reqr = s.reqr ∧
    ((∃ t1 t2, LongEnough s.cfg (t1, t2) ∧ t.delivered = s.delivered ++ [sentFrame (BitVec.ofInt 8 c) true] ∧
        ((s.k ≠ 1#32 ∧ t.phase = .payload ∧ t.trace = s.trace ++ sent (BitVec.ofInt 8 c) true t1 t2 .ok) ∨
         (s.k = 1#32 ∧ t.phase = .idle ∧ t.stat = .ok ∧
            t.trace = s.trace ++ sent (BitVec.ofInt 8 c) true t1 t2 .ok ++ [.rsp .ok]))) ∨
     (t.stat = .deviceUnavailable ∧ ∃ es,
        ((es = [.acq .fail] ∧ t.delivered = s.delivered) ∨
         (∃ t1 t2, LongEnough s.cfg (t1, t2) ∧ es = sent (BitVec.ofInt 8 c) true t1 t2 .fail ∧
            t.delivered = s.delivered ++ [sentFrame (BitVec.ofInt 8 c) true])) ∧
        ((s.k ≠ 1#32 ∧ t.phase = .drain ∧ t.trace = s.trace ++ es) ∨
         (s.k = 1#32 ∧ t.phase = .idle ∧ t.trace = s.trace ++ es ++ [.rsp .deviceUnavailable]))))

/-- R152: a single-transmission operation that has answered `OK` took at least `N_SETUP` plus
`N_PULSE` plus six edges, and one for its response. Where an edge falls inside a phase, and so how
many edges are taken, is the model's choice (log 5, log 6). -/
def Obligations.TransmissionTakesItsLeastTime : Prop :=
  ∀ (i : Instr) (v : Byte) (d : Bool) (s t : State), singleByte i = some (v, d) → Idle s →
    s.initf = true → NoReset s → exec i s = .next t → t.phase = .idle → t.stat = .ok →
    transmissionCycles s.cfg + 1 + t.inputs.length ≤ s.inputs.length

/-- R98 as a run: a string of code points in [0,255] offered word by word is delivered character by
character in order, and the answer is `OK`. One step per word (log 2), and as many samples between
the words as a prompt transmission takes (log 5, log 6), are the model's choice. -/
def Obligations.WholeStringIsDelivered : Prop :=
  ∀ (cps : List Int) (s : State) (rest : List PortIn), cps ≠ [] → cps.length ≤ 2147483647 →
    (∀ c ∈ cps, 0 ≤ c ∧ c ≤ 255) → Idle s → s.initf = true → usableConfig s.cfg = true →
    s.inputs = offerPrompt (encode (.wrs cps.length)) ::
      (cps.flatMap fun c => offerPrompt (encode (.chr c)) ::
        List.replicate (transmissionCycles s.cfg) (offerPrompt 0#48)) ++ offerPrompt 0#48 :: rest →
    ∃ t, Sys2Proof.core.run (cps.length + 1) s = .next t ∧ t.phase = .idle ∧ t.stat = .ok ∧
      t.inputs = rest ∧ t.initf = true ∧
      t.delivered = s.delivered ++ cps.map (fun c => sentFrame (BitVec.ofInt 8 c) true)

/-- R56: with RS low an operation of the Command Encoder, and `INIT`, deliver only the bytes R56 lists;
RW is low. `TX` alone can send the others. -/
def Obligations.EncoderComposesOnlyItsBytes : Prop :=
  ∀ (i : Instr) (s t : State), i.isHeader = true → (∀ v d, i ≠ .tx v d) → Idle s → NoReset s →
    exec i s = .next t →
    ∀ f ∈ t.delivered.drop s.delivered.length, f.rs = false ∧ f.rw = false ∧
      (f.d ∈ [0x01#8, 0x02#8, 0x10#8, 0x14#8, 0x30#8, 0x34#8, 0x38#8, 0x3C#8] ∨
        (0x08#8 ≤ f.d ∧ f.d ≤ 0x0F#8) ∨ 0x80#8 ≤ f.d)

/-! ## Frames -/

/-- Frame of `CLR`, `HOME`, `FMT`, `DISP`, `POS`, `TX` on every operand and with any agents short of
a reset: `INITF`, `OE`, `K` are unchanged, and `REQR` is the request's word, which for a request the
guard or the range check refuses is the model's reading of R16 and R106 (log 8); ended, the lines are
low and the session closed as before; a form that answers an error before its session leaves `VAL`
and `DM` too. -/
def Obligations.SingleCommandFrame : Prop :=
  ∀ (i : Instr) (s t : State),
    (i = .clr ∨ i = .home ∨ (∃ a b, i = .fmt a b) ∨ (∃ a b c, i = .disp a b c) ∨ (∃ a b, i = .pos a b) ∨
      (∃ a b, i = .tx a b)) →
    i.wellFormed = true → Idle s → NoReset s → exec i s = .next t →
    t.initf = s.initf ∧ t.oe = s.oe ∧ t.k = s.k ∧ t.cfg = s.cfg ∧ t.draws = s.draws ∧ t.reqr = encode i ∧
    (t.phase = .idle → t.pin = s.pin ∧ t.ses = s.ses) ∧
    (s.initf = false ∨ singleByte i = none →
      t.val = s.val ∧ t.dm = s.dm ∧ t.tmr = s.tmr ∧ t.waited = s.waited ∧ t.pin = s.pin ∧ t.ses = s.ses ∧
      t.delivered = s.delivered)

/-- Frame of `CUR`, `CUL`, `WRS` and of a payload word: `INITF` and `OE` are unchanged, `REQR` is the
header's word, which for a refused header is the model's reading of R16 and R106 (log 8); before `INIT` a cursor move and an empty string leave `K`, `VAL`, `DM` and
`TMR` too. -/
def Obligations.CountedCommandFrame : Prop :=
  ∀ (i : Instr) (s t : State),
    ((∃ n, i = .cur n) ∨ (∃ n, i = .cul n) ∨ (∃ n, i = .wrs n)) ∧ i.wellFormed = true ∧ Idle s ∨
      (∃ c, i = .chr c) ∧ (InText s ∨ s.phase = .drain ∧ s.ses = false ∧ s.pin = 0x000#11 ∧ inBurst s = true) →
    NoReset s → exec i s = .next t →
    t.initf = s.initf ∧ t.oe = s.oe ∧ t.cfg = s.cfg ∧ t.draws = s.draws ∧
    t.reqr = (if i.isHeader then encode i else s.reqr) ∧
    (takesWord t.phase = true → t.pin = s.pin ∧ t.ses = s.ses) ∧
    (s.initf = false → (∃ n, i = .cur n) ∨ (∃ n, i = .cul n) ∨ i = .wrs 0 →
      t.k = s.k ∧ t.val = s.val ∧ t.dm = s.dm ∧ t.tmr = s.tmr ∧ t.delivered = s.delivered)

/-- Frame of `INIT`: `OE` is unchanged or all ones, `INITF` never cleared (R108), and ended, the
lines are low and the session closed as before. -/
def Obligations.InitFrame : Prop :=
  ∀ s t : State, Idle s → NoReset s → exec .init s = .next t →
    t.cfg = s.cfg ∧ t.draws = s.draws ∧ t.reqr = encode .init ∧
    (t.oe = s.oe ∨ t.oe = 0x7FF#11) ∧ (s.initf = true → t.initf = true) ∧
    (t.initf ≠ s.initf → t.stat = .ok) ∧
    (t.phase = .idle → t.pin = s.pin ∧ t.ses = s.ses)
end

