-- ==== Sys2Proof/Laws/Decode.lean ====
section
/-! SUPPORT. The fields of a word put together from fields, and the integers a field holds. -/

namespace Sys2Proof

@[simp] theorem opField_header (op fl : Byte) (arg : Arg) : opField (header op fl arg) = op := by
  apply BitVec.eq_of_getLsbD_eq
  intro i hi
  simp only [opField, header, BitVec.getLsbD_extractLsb', BitVec.getLsbD_append]
  simp [hi, show ¬ 40 + i < 32 by omega, show ¬ 40 + i - 32 < 8 by omega, show 40 + i - 32 - 8 = i by omega]

@[simp] theorem flField_header (op fl : Byte) (arg : Arg) : flField (header op fl arg) = fl := by
  apply BitVec.eq_of_getLsbD_eq
  intro i hi
  simp only [flField, header, BitVec.getLsbD_extractLsb', BitVec.getLsbD_append]
  simp [hi, show ¬ 32 + i < 32 by omega]

@[simp] theorem argField_header (op fl : Byte) (arg : Arg) : argField (header op fl arg) = arg := by
  apply BitVec.eq_of_getLsbD_eq
  intro i hi
  simp only [argField, header, BitVec.getLsbD_extractLsb', BitVec.getLsbD_append]
  simp [hi]

/-- A word is its three fields. -/
theorem header_fields (w : ReqWord) : header (opField w) (flField w) (argField w) = w := by
  apply BitVec.eq_of_getLsbD_eq
  intro i hi
  simp only [header, opField, flField, argField, BitVec.getLsbD_append, BitVec.getLsbD_extractLsb']
  by_cases h1 : i < 32
  · simp [h1]
  · by_cases h2 : i - 32 < 8
    · simp [h1, h2, show 32 + (i - 32) = i by omega]
    · simp [h1, h2, show i - 32 - 8 < 8 by omega, show 40 + (i - 32 - 8) = i by omega]

/-- An integer that fits the field comes back from it. -/
theorem sext32_ofInt {n : Int} (h : fitsArg n = true) : sext32 (BitVec.ofInt 32 n) = n := by
  simp only [fitsArg, Bool.and_eq_true, decide_eq_true_eq] at h
  simp only [sext32, BitVec.toInt_ofInt, Int.bmod]
  omega

/-- What a field reads as fits the field. -/
theorem fitsArg_sext32 (a : Arg) : fitsArg (sext32 a) = true := by
  have h1 := a.toInt_lt
  have h2 := a.le_toInt
  norm_num at h1 h2
  simp only [fitsArg, Bool.and_eq_true, decide_eq_true_eq]
  exact ⟨h2, by unfold sext32; omega⟩

/-- The field of what it reads as is the field. -/
theorem ofInt_sext32 (a : Arg) : BitVec.ofInt 32 (sext32 a) = a := by
  simp [sext32]

/-! ## What decoding answers, row by row -/

theorem flagsOnly_ok {mask fl : Byte} {arg : Arg} {i j : Instr} :
    flagsOnly mask fl arg i = .ok j ↔ fl &&& ~~~mask = 0#8 ∧ arg = 0#32 ∧ i = j := by
  unfold flagsOnly
  by_cases h1 : fl &&& ~~~mask = 0#8 <;> by_cases h2 : arg = 0#32 <;> simp [h1, h2]

theorem withOperand_ok {mask fl : Byte} {i j : Instr} :
    withOperand mask fl i = .ok j ↔ fl &&& ~~~mask = 0#8 ∧ i = j := by
  unfold withOperand
  by_cases h1 : fl &&& ~~~mask = 0#8 <;> simp [h1]

theorem withLength_ok {fl : Byte} {len : Int} {j : Instr} :
    withLength fl len = .ok j ↔ fl = 0#8 ∧ 0 ≤ len ∧ .wrs len = j := by
  unfold withLength
  by_cases h1 : fl = 0#8
  · by_cases h2 : len < 0
    · simp [h1, h2, show ¬ 0 ≤ len by omega]
    · simp [h1, h2, show 0 ≤ len by omega]
  · simp [h1]

/-- A word decodes to a request exactly when its fields are those R58 gives the request. -/
theorem decodeHeader_ok {w : ReqWord} {i : Instr} (h : decodeHeader w = .ok i) :
    opField w = encodeOp i ∧ i.isHeader = true ∧
      (match i with
       | .init | .clr | .home => flField w = 0#8 ∧ argField w = 0#32
       | .fmt a b => flField w &&& ~~~0x0C#8 = 0#8 ∧ argField w = 0#32 ∧
           a = (flField w).getLsbD 3 ∧ b = (flField w).getLsbD 2
       | .disp a b c => flField w &&& ~~~0x07#8 = 0#8 ∧ argField w = 0#32 ∧
           a = (flField w).getLsbD 2 ∧ b = (flField w).getLsbD 1 ∧ c = (flField w).getLsbD 0
       | .cur n => flField w = 0#8 ∧ n = sext32 (argField w)
       | .cul n => flField w = 0#8 ∧ n = sext32 (argField w)
       | .pos n b => flField w &&& ~~~0x40#8 = 0#8 ∧ n = sext32 (argField w) ∧ b = (flField w).getLsbD 6
       | .wrs n => flField w = 0#8 ∧ n = sext32 (argField w) ∧ 0 ≤ n
       | .tx n b => flField w &&& ~~~0x01#8 = 0#8 ∧ n = sext32 (argField w) ∧ b = (flField w).getLsbD 0
       | .chr _ => False) := by
  have full : ∀ fl : Byte, fl &&& ~~~0x00#8 = fl := by decide
  unfold decodeHeader at h
  dsimp only at h
  by_cases h1 : opField w = 0x01#8
  · rw [if_pos h1, flagsOnly_ok, full] at h; obtain ⟨ha, hb, rfl⟩ := h; exact ⟨h1, rfl, ha, hb⟩
  rw [if_neg h1] at h
  by_cases h2 : opField w = 0x02#8
  · rw [if_pos h2, flagsOnly_ok, full] at h; obtain ⟨ha, hb, rfl⟩ := h; exact ⟨h2, rfl, ha, hb⟩
  rw [if_neg h2] at h
  by_cases h3 : opField w = 0x03#8
  · rw [if_pos h3, flagsOnly_ok, full] at h; obtain ⟨ha, hb, rfl⟩ := h; exact ⟨h3, rfl, ha, hb⟩
  rw [if_neg h3] at h
  by_cases h4 : opField w = 0x04#8
  · rw [if_pos h4, flagsOnly_ok] at h; obtain ⟨ha, hb, rfl⟩ := h; exact ⟨h4, rfl, ha, hb, rfl, rfl⟩
  rw [if_neg h4] at h
  by_cases h5 : opField w = 0x05#8
  · rw [if_pos h5, flagsOnly_ok] at h; obtain ⟨ha, hb, rfl⟩ := h; exact ⟨h5, rfl, ha, hb, rfl, rfl, rfl⟩
  rw [if_neg h5] at h
  by_cases h6 : opField w = 0x06#8
  · rw [if_pos h6, withOperand_ok, full] at h; obtain ⟨ha, rfl⟩ := h; exact ⟨h6, rfl, ha, rfl⟩
  rw [if_neg h6] at h
  by_cases h7 : opField w = 0x07#8
  · rw [if_pos h7, withOperand_ok, full] at h; obtain ⟨ha, rfl⟩ := h; exact ⟨h7, rfl, ha, rfl⟩
  rw [if_neg h7] at h
  by_cases h8 : opField w = 0x08#8
  · rw [if_pos h8, withOperand_ok] at h; obtain ⟨ha, rfl⟩ := h; exact ⟨h8, rfl, ha, rfl, rfl⟩
  rw [if_neg h8] at h
  by_cases h9 : opField w = 0x09#8
  · rw [if_pos h9, withLength_ok] at h; obtain ⟨ha, hb, rfl⟩ := h; exact ⟨h9, rfl, ha, rfl, hb⟩
  rw [if_neg h9] at h
  by_cases h10 : opField w = 0x0A#8
  · rw [if_pos h10, withOperand_ok] at h; obtain ⟨ha, rfl⟩ := h; exact ⟨h10, rfl, ha, rfl, rfl⟩
  rw [if_neg h10] at h
  exact absurd h (by simp)

/-- A decoded header has the operation code of the word it came from. -/
theorem opField_of_decode {w : ReqWord} {i : Instr} (h : decodeHeader w = .ok i) :
    opField w = encodeOp i ∧ i.isHeader = true :=
  ⟨(decodeHeader_ok h).1, (decodeHeader_ok h).2.1⟩

/-- `INIT`'s word in `REQR` is read back as `INIT`. -/
theorem decode_encode_init : decodeHeader (encode .init) = .ok .init := by decide

end Sys2Proof
end

