-- ==== Sys2Proof/Laws/State.lean ====
section
/-! SUPPORT. One lemma per field per update of the state, so that no proof unfolds a record
update. -/

namespace Sys2Proof.Machine

/-! ## `emit` -/

@[simp] theorem State.emit_initf (s : State) (e : Event) : (s.emit e).initf = s.initf := rfl
@[simp] theorem State.emit_oe (s : State) (e : Event) : (s.emit e).oe = s.oe := rfl
@[simp] theorem State.emit_pin (s : State) (e : Event) : (s.emit e).pin = s.pin := rfl
@[simp] theorem State.emit_ses (s : State) (e : Event) : (s.emit e).ses = s.ses := rfl
@[simp] theorem State.emit_phase (s : State) (e : Event) : (s.emit e).phase = s.phase := rfl
@[simp] theorem State.emit_reqr (s : State) (e : Event) : (s.emit e).reqr = s.reqr := rfl
@[simp] theorem State.emit_k (s : State) (e : Event) : (s.emit e).k = s.k := rfl
@[simp] theorem State.emit_val (s : State) (e : Event) : (s.emit e).val = s.val := rfl
@[simp] theorem State.emit_dm (s : State) (e : Event) : (s.emit e).dm = s.dm := rfl
@[simp] theorem State.emit_tmr (s : State) (e : Event) : (s.emit e).tmr = s.tmr := rfl
@[simp] theorem State.emit_stat (s : State) (e : Event) : (s.emit e).stat = s.stat := rfl
@[simp] theorem State.emit_cfg (s : State) (e : Event) : (s.emit e).cfg = s.cfg := rfl
@[simp] theorem State.emit_inputs (s : State) (e : Event) : (s.emit e).inputs = s.inputs := rfl
@[simp] theorem State.emit_waited (s : State) (e : Event) : (s.emit e).waited = s.waited := rfl
@[simp] theorem State.emit_trace (s : State) (e : Event) : (s.emit e).trace = s.trace ++ [e] := rfl
@[simp] theorem State.emit_delivered (s : State) (e : Event) : (s.emit e).delivered = s.delivered := rfl
@[simp] theorem State.emit_draws (s : State) (e : Event) : (s.emit e).draws = s.draws := rfl

/-! ## `goto` -/

@[simp] theorem State.goto_initf (s : State) (p : Phase) : (s.goto p).initf = s.initf := rfl
@[simp] theorem State.goto_oe (s : State) (p : Phase) : (s.goto p).oe = s.oe := rfl
@[simp] theorem State.goto_pin (s : State) (p : Phase) : (s.goto p).pin = s.pin := rfl
@[simp] theorem State.goto_ses (s : State) (p : Phase) : (s.goto p).ses = s.ses := rfl
@[simp] theorem State.goto_phase (s : State) (p : Phase) : (s.goto p).phase = p := rfl
@[simp] theorem State.goto_reqr (s : State) (p : Phase) : (s.goto p).reqr = s.reqr := rfl
@[simp] theorem State.goto_k (s : State) (p : Phase) : (s.goto p).k = s.k := rfl
@[simp] theorem State.goto_val (s : State) (p : Phase) : (s.goto p).val = s.val := rfl
@[simp] theorem State.goto_dm (s : State) (p : Phase) : (s.goto p).dm = s.dm := rfl
@[simp] theorem State.goto_tmr (s : State) (p : Phase) : (s.goto p).tmr = s.tmr := rfl
@[simp] theorem State.goto_stat (s : State) (p : Phase) : (s.goto p).stat = s.stat := rfl
@[simp] theorem State.goto_cfg (s : State) (p : Phase) : (s.goto p).cfg = s.cfg := rfl
@[simp] theorem State.goto_inputs (s : State) (p : Phase) : (s.goto p).inputs = s.inputs := rfl
@[simp] theorem State.goto_waited (s : State) (p : Phase) : (s.goto p).waited = s.waited := rfl
@[simp] theorem State.goto_trace (s : State) (p : Phase) : (s.goto p).trace = s.trace := rfl
@[simp] theorem State.goto_delivered (s : State) (p : Phase) : (s.goto p).delivered = s.delivered := rfl
@[simp] theorem State.goto_draws (s : State) (p : Phase) : (s.goto p).draws = s.draws := rfl

/-! ## `latch` -/

@[simp] theorem State.latch_initf (s : State) (w : ReqWord) : (s.latch w).initf = s.initf := rfl
@[simp] theorem State.latch_oe (s : State) (w : ReqWord) : (s.latch w).oe = s.oe := rfl
@[simp] theorem State.latch_pin (s : State) (w : ReqWord) : (s.latch w).pin = s.pin := rfl
@[simp] theorem State.latch_ses (s : State) (w : ReqWord) : (s.latch w).ses = s.ses := rfl
@[simp] theorem State.latch_phase (s : State) (w : ReqWord) : (s.latch w).phase = s.phase := rfl
@[simp] theorem State.latch_reqr (s : State) (w : ReqWord) : (s.latch w).reqr = w := rfl
@[simp] theorem State.latch_k (s : State) (w : ReqWord) : (s.latch w).k = s.k := rfl
@[simp] theorem State.latch_val (s : State) (w : ReqWord) : (s.latch w).val = s.val := rfl
@[simp] theorem State.latch_dm (s : State) (w : ReqWord) : (s.latch w).dm = s.dm := rfl
@[simp] theorem State.latch_tmr (s : State) (w : ReqWord) : (s.latch w).tmr = s.tmr := rfl
@[simp] theorem State.latch_stat (s : State) (w : ReqWord) : (s.latch w).stat = s.stat := rfl
@[simp] theorem State.latch_cfg (s : State) (w : ReqWord) : (s.latch w).cfg = s.cfg := rfl
@[simp] theorem State.latch_inputs (s : State) (w : ReqWord) : (s.latch w).inputs = s.inputs := rfl
@[simp] theorem State.latch_waited (s : State) (w : ReqWord) : (s.latch w).waited = s.waited := rfl
@[simp] theorem State.latch_trace (s : State) (w : ReqWord) : (s.latch w).trace = s.trace := rfl
@[simp] theorem State.latch_delivered (s : State) (w : ReqWord) : (s.latch w).delivered = s.delivered := rfl
@[simp] theorem State.latch_draws (s : State) (w : ReqWord) : (s.latch w).draws = s.draws := rfl

/-! ## `setK` -/

@[simp] theorem State.setK_initf (s : State) (n : Arg) : (s.setK n).initf = s.initf := rfl
@[simp] theorem State.setK_oe (s : State) (n : Arg) : (s.setK n).oe = s.oe := rfl
@[simp] theorem State.setK_pin (s : State) (n : Arg) : (s.setK n).pin = s.pin := rfl
@[simp] theorem State.setK_ses (s : State) (n : Arg) : (s.setK n).ses = s.ses := rfl
@[simp] theorem State.setK_phase (s : State) (n : Arg) : (s.setK n).phase = s.phase := rfl
@[simp] theorem State.setK_reqr (s : State) (n : Arg) : (s.setK n).reqr = s.reqr := rfl
@[simp] theorem State.setK_k (s : State) (n : Arg) : (s.setK n).k = n := rfl
@[simp] theorem State.setK_val (s : State) (n : Arg) : (s.setK n).val = s.val := rfl
@[simp] theorem State.setK_dm (s : State) (n : Arg) : (s.setK n).dm = s.dm := rfl
@[simp] theorem State.setK_tmr (s : State) (n : Arg) : (s.setK n).tmr = s.tmr := rfl
@[simp] theorem State.setK_stat (s : State) (n : Arg) : (s.setK n).stat = s.stat := rfl
@[simp] theorem State.setK_cfg (s : State) (n : Arg) : (s.setK n).cfg = s.cfg := rfl
@[simp] theorem State.setK_inputs (s : State) (n : Arg) : (s.setK n).inputs = s.inputs := rfl
@[simp] theorem State.setK_waited (s : State) (n : Arg) : (s.setK n).waited = s.waited := rfl
@[simp] theorem State.setK_trace (s : State) (n : Arg) : (s.setK n).trace = s.trace := rfl
@[simp] theorem State.setK_delivered (s : State) (n : Arg) : (s.setK n).delivered = s.delivered := rfl
@[simp] theorem State.setK_draws (s : State) (n : Arg) : (s.setK n).draws = s.draws := rfl

/-! ## `respond` -/

@[simp] theorem respond_initf (s : State) (c : Status) : (respond c s).initf = s.initf := rfl
@[simp] theorem respond_oe (s : State) (c : Status) : (respond c s).oe = s.oe := rfl
@[simp] theorem respond_pin (s : State) (c : Status) : (respond c s).pin = s.pin := rfl
@[simp] theorem respond_ses (s : State) (c : Status) : (respond c s).ses = s.ses := rfl
@[simp] theorem respond_phase (s : State) (c : Status) : (respond c s).phase = .rsp := rfl
@[simp] theorem respond_reqr (s : State) (c : Status) : (respond c s).reqr = s.reqr := rfl
@[simp] theorem respond_k (s : State) (c : Status) : (respond c s).k = s.k := rfl
@[simp] theorem respond_val (s : State) (c : Status) : (respond c s).val = s.val := rfl
@[simp] theorem respond_dm (s : State) (c : Status) : (respond c s).dm = s.dm := rfl
@[simp] theorem respond_tmr (s : State) (c : Status) : (respond c s).tmr = s.tmr := rfl
@[simp] theorem respond_stat (s : State) (c : Status) : (respond c s).stat = c := rfl
@[simp] theorem respond_cfg (s : State) (c : Status) : (respond c s).cfg = s.cfg := rfl
@[simp] theorem respond_inputs (s : State) (c : Status) : (respond c s).inputs = s.inputs := rfl
@[simp] theorem respond_waited (s : State) (c : Status) : (respond c s).waited = s.waited := rfl
@[simp] theorem respond_trace (s : State) (c : Status) : (respond c s).trace = s.trace ++ [.rsp c] := rfl
@[simp] theorem respond_delivered (s : State) (c : Status) : (respond c s).delivered = s.delivered := rfl
@[simp] theorem respond_draws (s : State) (c : Status) : (respond c s).draws = s.draws := rfl

/-! ## `acceptResponse` -/

@[simp] theorem acceptResponse_initf (s : State) : (acceptResponse s).initf = s.initf := rfl
@[simp] theorem acceptResponse_oe (s : State) : (acceptResponse s).oe = s.oe := rfl
@[simp] theorem acceptResponse_pin (s : State) : (acceptResponse s).pin = s.pin := rfl
@[simp] theorem acceptResponse_ses (s : State) : (acceptResponse s).ses = s.ses := rfl
@[simp] theorem acceptResponse_phase (s : State) : (acceptResponse s).phase = .idle := rfl
@[simp] theorem acceptResponse_reqr (s : State) : (acceptResponse s).reqr = s.reqr := rfl
@[simp] theorem acceptResponse_k (s : State) : (acceptResponse s).k = s.k := rfl
@[simp] theorem acceptResponse_val (s : State) : (acceptResponse s).val = s.val := rfl
@[simp] theorem acceptResponse_dm (s : State) : (acceptResponse s).dm = s.dm := rfl
@[simp] theorem acceptResponse_tmr (s : State) : (acceptResponse s).tmr = s.tmr := rfl
@[simp] theorem acceptResponse_stat (s : State) : (acceptResponse s).stat = s.stat := rfl
@[simp] theorem acceptResponse_cfg (s : State) : (acceptResponse s).cfg = s.cfg := rfl
@[simp] theorem acceptResponse_inputs (s : State) : (acceptResponse s).inputs = s.inputs := rfl
@[simp] theorem acceptResponse_waited (s : State) : (acceptResponse s).waited = s.waited := rfl
@[simp] theorem acceptResponse_trace (s : State) : (acceptResponse s).trace = s.trace := rfl
@[simp] theorem acceptResponse_delivered (s : State) : (acceptResponse s).delivered = s.delivered := rfl
@[simp] theorem acceptResponse_draws (s : State) : (acceptResponse s).draws = s.draws := rfl

/-! ## `startTimer` -/

@[simp] theorem startTimer_initf (s : State) (n : Nat) : (startTimer n s).initf = s.initf := rfl
@[simp] theorem startTimer_oe (s : State) (n : Nat) : (startTimer n s).oe = s.oe := rfl
@[simp] theorem startTimer_pin (s : State) (n : Nat) : (startTimer n s).pin = s.pin := rfl
@[simp] theorem startTimer_ses (s : State) (n : Nat) : (startTimer n s).ses = s.ses := rfl
@[simp] theorem startTimer_phase (s : State) (n : Nat) : (startTimer n s).phase = s.phase := rfl
@[simp] theorem startTimer_reqr (s : State) (n : Nat) : (startTimer n s).reqr = s.reqr := rfl
@[simp] theorem startTimer_k (s : State) (n : Nat) : (startTimer n s).k = s.k := rfl
@[simp] theorem startTimer_val (s : State) (n : Nat) : (startTimer n s).val = s.val := rfl
@[simp] theorem startTimer_dm (s : State) (n : Nat) : (startTimer n s).dm = s.dm := rfl
@[simp] theorem startTimer_tmr (s : State) (n : Nat) : (startTimer n s).tmr = n := rfl
@[simp] theorem startTimer_stat (s : State) (n : Nat) : (startTimer n s).stat = s.stat := rfl
@[simp] theorem startTimer_cfg (s : State) (n : Nat) : (startTimer n s).cfg = s.cfg := rfl
@[simp] theorem startTimer_inputs (s : State) (n : Nat) : (startTimer n s).inputs = s.inputs := rfl
@[simp] theorem startTimer_waited (s : State) (n : Nat) : (startTimer n s).waited = 0 := rfl
@[simp] theorem startTimer_trace (s : State) (n : Nat) : (startTimer n s).trace = s.trace := rfl
@[simp] theorem startTimer_delivered (s : State) (n : Nat) : (startTimer n s).delivered = s.delivered := rfl
@[simp] theorem startTimer_draws (s : State) (n : Nat) : (startTimer n s).draws = s.draws := rfl

/-! ## `countCycle` -/

@[simp] theorem countCycle_initf (s : State) : (countCycle s).initf = s.initf := rfl
@[simp] theorem countCycle_oe (s : State) : (countCycle s).oe = s.oe := rfl
@[simp] theorem countCycle_pin (s : State) : (countCycle s).pin = s.pin := rfl
@[simp] theorem countCycle_ses (s : State) : (countCycle s).ses = s.ses := rfl
@[simp] theorem countCycle_phase (s : State) : (countCycle s).phase = s.phase := rfl
@[simp] theorem countCycle_reqr (s : State) : (countCycle s).reqr = s.reqr := rfl
@[simp] theorem countCycle_k (s : State) : (countCycle s).k = s.k := rfl
@[simp] theorem countCycle_val (s : State) : (countCycle s).val = s.val := rfl
@[simp] theorem countCycle_dm (s : State) : (countCycle s).dm = s.dm := rfl
@[simp] theorem countCycle_tmr (s : State) : (countCycle s).tmr = s.tmr - 1 := rfl
@[simp] theorem countCycle_stat (s : State) : (countCycle s).stat = s.stat := rfl
@[simp] theorem countCycle_cfg (s : State) : (countCycle s).cfg = s.cfg := rfl
@[simp] theorem countCycle_inputs (s : State) : (countCycle s).inputs = s.inputs := rfl
@[simp] theorem countCycle_waited (s : State) : (countCycle s).waited = s.waited + 1 := rfl
@[simp] theorem countCycle_trace (s : State) : (countCycle s).trace = s.trace := rfl
@[simp] theorem countCycle_delivered (s : State) : (countCycle s).delivered = s.delivered := rfl
@[simp] theorem countCycle_draws (s : State) : (countCycle s).draws = s.draws := rfl

/-! ## `endWait` -/

@[simp] theorem endWait_initf (s : State) : (endWait s).initf = s.initf := rfl
@[simp] theorem endWait_oe (s : State) : (endWait s).oe = s.oe := rfl
@[simp] theorem endWait_pin (s : State) : (endWait s).pin = s.pin := rfl
@[simp] theorem endWait_ses (s : State) : (endWait s).ses = s.ses := rfl
@[simp] theorem endWait_phase (s : State) : (endWait s).phase = s.phase := rfl
@[simp] theorem endWait_reqr (s : State) : (endWait s).reqr = s.reqr := rfl
@[simp] theorem endWait_k (s : State) : (endWait s).k = s.k := rfl
@[simp] theorem endWait_val (s : State) : (endWait s).val = s.val := rfl
@[simp] theorem endWait_dm (s : State) : (endWait s).dm = s.dm := rfl
@[simp] theorem endWait_tmr (s : State) : (endWait s).tmr = s.tmr := rfl
@[simp] theorem endWait_stat (s : State) : (endWait s).stat = s.stat := rfl
@[simp] theorem endWait_cfg (s : State) : (endWait s).cfg = s.cfg := rfl
@[simp] theorem endWait_inputs (s : State) : (endWait s).inputs = s.inputs := rfl
@[simp] theorem endWait_waited (s : State) : (endWait s).waited = 0 := rfl
@[simp] theorem endWait_trace (s : State) : (endWait s).trace = s.trace ++ [.wait s.waited] := rfl
@[simp] theorem endWait_delivered (s : State) : (endWait s).delivered = s.delivered := rfl
@[simp] theorem endWait_draws (s : State) : (endWait s).draws = s.draws := rfl

/-! ## `pinWrite`: all but `PIN` and the trace -/

@[simp] theorem pinWrite_initf (s : State) (ws : List (Role × Bool)) : (pinWrite ws s).initf = s.initf := by unfold pinWrite; split <;> rfl
@[simp] theorem pinWrite_oe (s : State) (ws : List (Role × Bool)) : (pinWrite ws s).oe = s.oe := by unfold pinWrite; split <;> rfl
@[simp] theorem pinWrite_ses (s : State) (ws : List (Role × Bool)) : (pinWrite ws s).ses = s.ses := by unfold pinWrite; split <;> rfl
@[simp] theorem pinWrite_phase (s : State) (ws : List (Role × Bool)) : (pinWrite ws s).phase = s.phase := by unfold pinWrite; split <;> rfl
@[simp] theorem pinWrite_reqr (s : State) (ws : List (Role × Bool)) : (pinWrite ws s).reqr = s.reqr := by unfold pinWrite; split <;> rfl
@[simp] theorem pinWrite_k (s : State) (ws : List (Role × Bool)) : (pinWrite ws s).k = s.k := by unfold pinWrite; split <;> rfl
@[simp] theorem pinWrite_val (s : State) (ws : List (Role × Bool)) : (pinWrite ws s).val = s.val := by unfold pinWrite; split <;> rfl
@[simp] theorem pinWrite_dm (s : State) (ws : List (Role × Bool)) : (pinWrite ws s).dm = s.dm := by unfold pinWrite; split <;> rfl
@[simp] theorem pinWrite_tmr (s : State) (ws : List (Role × Bool)) : (pinWrite ws s).tmr = s.tmr := by unfold pinWrite; split <;> rfl
@[simp] theorem pinWrite_stat (s : State) (ws : List (Role × Bool)) : (pinWrite ws s).stat = s.stat := by unfold pinWrite; split <;> rfl
@[simp] theorem pinWrite_cfg (s : State) (ws : List (Role × Bool)) : (pinWrite ws s).cfg = s.cfg := by unfold pinWrite; split <;> rfl
@[simp] theorem pinWrite_inputs (s : State) (ws : List (Role × Bool)) : (pinWrite ws s).inputs = s.inputs := by unfold pinWrite; split <;> rfl
@[simp] theorem pinWrite_waited (s : State) (ws : List (Role × Bool)) : (pinWrite ws s).waited = s.waited := by unfold pinWrite; split <;> rfl
@[simp] theorem pinWrite_delivered (s : State) (ws : List (Role × Bool)) : (pinWrite ws s).delivered = s.delivered := by unfold pinWrite; split <;> rfl
@[simp] theorem pinWrite_draws (s : State) (ws : List (Role × Bool)) : (pinWrite ws s).draws = s.draws := by unfold pinWrite; split <;> rfl

/-! ## `enableOutputs`: all but `OE` and the trace -/

@[simp] theorem enableOutputs_initf (s : State) : (enableOutputs s).initf = s.initf := by unfold enableOutputs; split <;> rfl
@[simp] theorem enableOutputs_pin (s : State) : (enableOutputs s).pin = s.pin := by unfold enableOutputs; split <;> rfl
@[simp] theorem enableOutputs_ses (s : State) : (enableOutputs s).ses = s.ses := by unfold enableOutputs; split <;> rfl
@[simp] theorem enableOutputs_phase (s : State) : (enableOutputs s).phase = s.phase := by unfold enableOutputs; split <;> rfl
@[simp] theorem enableOutputs_reqr (s : State) : (enableOutputs s).reqr = s.reqr := by unfold enableOutputs; split <;> rfl
@[simp] theorem enableOutputs_k (s : State) : (enableOutputs s).k = s.k := by unfold enableOutputs; split <;> rfl
@[simp] theorem enableOutputs_val (s : State) : (enableOutputs s).val = s.val := by unfold enableOutputs; split <;> rfl
@[simp] theorem enableOutputs_dm (s : State) : (enableOutputs s).dm = s.dm := by unfold enableOutputs; split <;> rfl
@[simp] theorem enableOutputs_tmr (s : State) : (enableOutputs s).tmr = s.tmr := by unfold enableOutputs; split <;> rfl
@[simp] theorem enableOutputs_stat (s : State) : (enableOutputs s).stat = s.stat := by unfold enableOutputs; split <;> rfl
@[simp] theorem enableOutputs_cfg (s : State) : (enableOutputs s).cfg = s.cfg := by unfold enableOutputs; split <;> rfl
@[simp] theorem enableOutputs_inputs (s : State) : (enableOutputs s).inputs = s.inputs := by unfold enableOutputs; split <;> rfl
@[simp] theorem enableOutputs_waited (s : State) : (enableOutputs s).waited = s.waited := by unfold enableOutputs; split <;> rfl
@[simp] theorem enableOutputs_delivered (s : State) : (enableOutputs s).delivered = s.delivered := by unfold enableOutputs; split <;> rfl
@[simp] theorem enableOutputs_draws (s : State) : (enableOutputs s).draws = s.draws := by unfold enableOutputs; split <;> rfl

/-! ## `applyReset`: all but the delivered list and the draws -/

@[simp] theorem applyReset_initf (s : State) : (applyReset s).initf = false := rfl
@[simp] theorem applyReset_oe (s : State) : (applyReset s).oe = 0x000#11 := rfl
@[simp] theorem applyReset_pin (s : State) : (applyReset s).pin = 0x000#11 := rfl
@[simp] theorem applyReset_ses (s : State) : (applyReset s).ses = false := rfl
@[simp] theorem applyReset_phase (s : State) : (applyReset s).phase = .idle := rfl
@[simp] theorem applyReset_reqr (s : State) : (applyReset s).reqr = 0#48 := rfl
@[simp] theorem applyReset_k (s : State) : (applyReset s).k = 0#32 := rfl
@[simp] theorem applyReset_val (s : State) : (applyReset s).val = 0#8 := rfl
@[simp] theorem applyReset_dm (s : State) : (applyReset s).dm = false := rfl
@[simp] theorem applyReset_tmr (s : State) : (applyReset s).tmr = 0 := rfl
@[simp] theorem applyReset_stat (s : State) : (applyReset s).stat = .ok := rfl
@[simp] theorem applyReset_cfg (s : State) : (applyReset s).cfg = s.cfg := rfl
@[simp] theorem applyReset_inputs (s : State) : (applyReset s).inputs = s.inputs := rfl
@[simp] theorem applyReset_waited (s : State) : (applyReset s).waited = 0 := rfl
@[simp] theorem applyReset_trace (s : State) : (applyReset s).trace = s.trace := rfl

end Sys2Proof.Machine
end

