-- ==== Sys2Proof/Laws/Ops.lean ====
section
/-! SUPPORT. For each shared operation, once, what it can do. -/

namespace Sys2Proof.Machine

/-! ## The vectors of a transmission (R53, R73) -/

@[simp] theorem writeLevels_low (v : Pins) : writeLevels v lowWrites = 0x000#11 := by
  revert v; decide

theorem writeLevels_select (dm : Bool) : writeLevels 0x000#11 (selectWrites dm) = frameBits dm 0#8 := by
  revert dm; decide

theorem writeLevels_drive (dm : Bool) (v : Byte) :
    writeLevels (frameBits dm 0#8) (driveWrites v) = frameBits dm v := by
  revert dm v; decide

theorem writeLevels_raise (dm : Bool) (v : Byte) :
    writeLevels (frameBits dm v) [(.e, true)] = eBit ||| frameBits dm v := by
  revert dm v; decide

theorem writeLevels_lower (dm : Bool) (v : Byte) :
    writeLevels (eBit ||| frameBits dm v) [(.e, false)] = frameBits dm v := by
  revert dm v; decide

theorem presented_high (dm : Bool) (v : Byte) :
    presented (eBit ||| frameBits dm v) = { rs := dm, rw := false, d := v } := by
  revert dm v; decide

theorem level_e_high (dm : Bool) (v : Byte) : level (eBit ||| frameBits dm v) .e = true := by
  revert dm v; decide

theorem level_e_low (dm : Bool) (v : Byte) : level (frameBits dm v) .e = false := by
  revert dm v; decide

/-! ## `pinWrite` and `enableOutputs` -/

theorem pinWrite_open {s : State} (ws : List (Role × Bool)) (h : s.ses = true) :
    pinWrite ws s = { s with pin := writeLevels s.pin ws, trace := s.trace ++ [.pin (writeLevels s.pin ws)] } := by
  simp [pinWrite, h]

theorem pinWrite_closed {s : State} (ws : List (Role × Bool)) (h : s.ses = false) : pinWrite ws s = s := by
  simp [pinWrite, h]

/-- A `PinWrite` touches `PIN` and the trace only. -/
theorem pinWrite_frame (ws : List (Role × Bool)) (s : State) :
    pinWrite ws s = { s with pin := (pinWrite ws s).pin, trace := (pinWrite ws s).trace } := by
  unfold pinWrite; split <;> rfl

theorem enableOutputs_open {s : State} (h : s.ses = true) :
    enableOutputs s = { s with oe := 0x7FF#11, trace := s.trace ++ [.oe 0x7FF#11] } := by
  simp [enableOutputs, h]

/-- `OE <- 0x7FF` touches `OE` and the trace only. -/
theorem enableOutputs_frame (s : State) :
    enableOutputs s = { s with oe := (enableOutputs s).oe, trace := (enableOutputs s).trace } := by
  unfold enableOutputs; split <;> rfl

/-! ## Ending an operation, and the entries of its parts: each is one of a few updates -/

/-- A drain of some words, or of none. -/
theorem drainThen_cases (c : Status) (n : Arg) (s : State) :
    (n ≠ 0#32 ∧ drainThen c n s = { s with k := n, stat := c, phase := .drain }) ∨
    (n = 0#32 ∧ drainThen c n s = respond c s) := by
  unfold drainThen
  by_cases h : n = 0#32 <;> simp [h]

/-- `raise` drains or answers, and does nothing else (R120). -/
theorem raise_cases (c : Status) (s : State) :
    (inBurst s = true ∧ s.k ≠ 0#32 ∧ raise c s = { s with stat := c, phase := .drain }) ∨
    ((inBurst s = false ∨ s.k = 0#32) ∧ raise c s = respond c s) := by
  unfold raise drainThen
  by_cases h1 : inBurst s = true <;> by_cases h2 : s.k = 0#32 <;> simp_all

/-- Outside a burst `raise` answers at once. -/
theorem raise_single {c : Status} {s : State} (h : inBurst s = false) : raise c s = respond c s := by
  simp [raise, h]

/-- `transmit` asks for the session with `VAL` and `DM` set, or raises `InvalidCommand` (R72). -/
theorem transmit_cases (v : Int) (d : Bool) (s : State) :
    (inByteRange v = true ∧ transmit v d s = { s with val := byteOf v, dm := d, phase := .acq }) ∨
    (inByteRange v = false ∧ transmit v d s = raise .invalidCommand s) := by
  unfold transmit
  by_cases h : inByteRange v = true <;> simp_all

theorem transmit_inRange {v : Int} (d : Bool) (s : State) (h : inByteRange v = true) :
    transmit v d s = { s with val := byteOf v, dm := d, phase := .acq } := by
  simp [transmit, h]

@[simp] theorem inByteRange_clr : inByteRange clrValue = true := by decide
@[simp] theorem inByteRange_home : inByteRange homeValue = true := by decide
@[simp] theorem inByteRange_cur : inByteRange curValue = true := by decide
@[simp] theorem inByteRange_cul : inByteRange culValue = true := by decide
@[simp] theorem byteOf_clr : byteOf clrValue = 0x01#8 := by decide
@[simp] theorem byteOf_home : byteOf homeValue = 0x02#8 := by decide
@[simp] theorem byteOf_cur : byteOf curValue = 0x14#8 := by decide
@[simp] theorem byteOf_cul : byteOf culValue = 0x10#8 := by decide

theorem guardOr_on {refused body : State → State} {s : State} (h : s.initf = true) :
    guardOr refused body s = body s := by
  simp [guardOr, h]

theorem guardOr_off {refused body : State → State} {s : State} (h : s.initf = false) :
    guardOr refused body s = refused s := by
  simp [guardOr, h]

theorem guarded_on {body : State → State} {s : State} (h : s.initf = true) : guarded body s = body s :=
  guardOr_on h

theorem guarded_off {body : State → State} {s : State} (h : s.initf = false) :
    guarded body s = raise .notInitialized s :=
  guardOr_off h

/-! ## The operation in `REQR`, told by its code -/

theorem encodeOp_of_latched {i j : Instr} {w : ReqWord} (hs : w = encode i) (hd : decodeHeader w = .ok j) :
    encodeOp i = encodeOp j := by
  have h := (opField_of_decode hd).1
  rwa [hs, encode, opField_header] at h

/-- A request's own word in `REQR` is no burst unless the request is `WRS`. -/
theorem inBurst_of_latched {i : Instr} {s : State} (hs : s.reqr = encode i) (h : encodeOp i ≠ 0x09#8) :
    inBurst s = false := by
  unfold inBurst
  split
  · rename_i hd
    exact (h (encodeOp_of_latched hs hd)).elim
  · rfl

/-- Nor is it `INIT`'s configuration unless the request is `INIT`. -/
theorem configuring_of_latched {i : Instr} {s : State} (hs : s.reqr = encode i) (h : encodeOp i ≠ 0x01#8) :
    configuring s = false := by
  unfold configuring
  split
  · rename_i hd
    exact (h (encodeOp_of_latched hs hd)).elim
  · rfl

/-- In a burst nothing is configured. -/
theorem configuring_of_inBurst {s : State} (h : inBurst s = true) : configuring s = false := by
  unfold inBurst at h
  unfold configuring
  split <;> simp_all

/-- After a transmission of a single-transmission operation the answer is `OK` (R80, R90). -/
theorem afterTransmission_single {i : Instr} {s : State} (hs : s.reqr = encode i) (h1 : encodeOp i ≠ 0x01#8)
    (h6 : encodeOp i ≠ 0x06#8) (h7 : encodeOp i ≠ 0x07#8) (h9 : encodeOp i ≠ 0x09#8) :
    afterTransmission s = respond .ok s := by
  unfold afterTransmission
  split
  · rename_i hd; exact (h1 (encodeOp_of_latched hs hd)).elim
  · rename_i hd; exact (h6 (encodeOp_of_latched hs hd)).elim
  · rename_i hd; exact (h7 (encodeOp_of_latched hs hd)).elim
  · rename_i hd; exact (h9 (encodeOp_of_latched hs hd)).elim
  · rfl

/-- After a payload word's transmission the burst goes on (R98). -/
theorem afterTransmission_text {s : State} (h : inBurst s = true) : afterTransmission s = textLoop s := by
  unfold inBurst at h
  unfold afterTransmission
  split <;> simp_all

/-! ## The numbers of R4 -/

/-- `ceilDiv a b` is the least `n` with `a ≤ n * b`. -/
theorem ceilDiv_spec (a : Nat) {b : Nat} (hb : 0 < b) :
    a ≤ ceilDiv a b * b ∧ ∀ n, a ≤ n * b → ceilDiv a b ≤ n := by
  have h1 := Nat.div_add_mod a b
  have h2 := Nat.mod_lt a hb
  unfold ceilDiv
  by_cases h : a % b = 0
  · rw [if_pos h]
    refine ⟨by simp only [Nat.add_zero]; rw [Nat.mul_comm]; omega, fun n hn => ?_⟩
    exact Nat.div_le_of_le_mul (by rwa [Nat.mul_comm])
  · rw [if_neg h]
    refine ⟨by rw [Nat.add_mul, Nat.mul_comm]; omega, fun n hn => ?_⟩
    by_contra hc
    have : n * b ≤ a / b * b := Nat.mul_le_mul_right b (by omega)
    rw [Nat.mul_comm (a / b) b] at this
    omega

theorem one_le_cyclesFor (ns : Nat) (c : Config) : 1 ≤ cyclesFor ns c := Nat.le_max_left ..

theorem one_le_nSetup (c : Config) : 1 ≤ nSetup c := one_le_cyclesFor ..

theorem one_le_nPulse (c : Config) : 1 ≤ nPulse c := one_le_cyclesFor ..

theorem nPulse_le_nSetup (c : Config) : nPulse c ≤ nSetup c := by
  simp only [nPulse, nSetup, cyclesFor, Config.tSetupMinNs, Config.tPulseMinNs]
  have h := (ceilDiv_spec (500 * c.clkHz) (b := 1000000000) (by decide)).2
  have h := h (ceilDiv (500000 * c.clkHz) 1000000000)
    (by have := (ceilDiv_spec (500000 * c.clkHz) (b := 1000000000) (by decide)).1; omega)
  omega

theorem nSetup_lt (c : Config) : nSetup c < 2 ^ tmrWidth c :=
  Nat.lt_of_succ_le (Nat.le_pow_clog (by decide) _)

end Sys2Proof.Machine
end

