-- ==== Sys2Proof/Laws/Sequencer.lean ====
section
/-! SUPPORT. The sequencer: the run of edges and its induction, what an edge leaves alone, and the
edges of prompt agents. -/

namespace Sys2Proof.Machine

/-! ## The run of edges -/

theorem settleFrom_ready {s : State} (xs : List PortIn) (h : takesWord s.phase = true) :
    settleFrom xs s = { s with inputs := xs } := by
  cases xs <;> simp [settleFrom, h]

theorem settleFrom_busy {s : State} (x : PortIn) (xs : List PortIn) (h : takesWord s.phase = false) :
    settleFrom (x :: xs) s = settleFrom xs (busyEdge x s) := by
  simp [settleFrom, h]

/-- What holds of a state whatever its samples, and is kept by an edge of a busy phase, holds after
the run. -/
theorem settleFrom_induct {P : State → Prop} (hin : ∀ s l, P s → P { s with inputs := l }) :
    ∀ (xs : List PortIn) (s : State),
      (∀ x ∈ xs, ∀ u, takesWord u.phase = false → P u → P (busyEdge x u)) → P s → P (settleFrom xs s)
  | [], s, _, h => hin s [] h
  | x :: xs, s, hedge, h => by
    by_cases hw : takesWord s.phase = true
    · rw [settleFrom_ready _ hw]; exact hin s _ h
    · have hw : takesWord s.phase = false := by simpa using hw
      rw [settleFrom_busy x xs hw]
      exact settleFrom_induct hin xs _ (fun y hy => hedge y (List.mem_cons_of_mem x hy))
        (hedge x List.mem_cons_self s hw h)

/-- The same for a run without reset: an edge is then `advance`. -/
theorem settle_induct {P : State → Prop} (hin : ∀ s l, P s → P { s with inputs := l }) {s : State}
    (hr : NoReset s) (hedge : ∀ x u, takesWord u.phase = false → P u → P (advance x u)) (h : P s) :
    P (settle s) := by
  refine settleFrom_induct hin s.inputs s (fun x hx u hu hp => ?_) h
  simpa [busyEdge, hr x hx] using hedge x u hu hp

/-! ## What an operation's parts leave alone -/

/-- The fields that only the sequencer's timer, the pins and the request channel write. -/
structure SameFields (s t : State) : Prop where
  oe : t.oe = s.oe
  pin : t.pin = s.pin
  ses : t.ses = s.ses
  reqr : t.reqr = s.reqr
  tmr : t.tmr = s.tmr
  cfg : t.cfg = s.cfg
  inputs : t.inputs = s.inputs
  waited : t.waited = s.waited
  delivered : t.delivered = s.delivered
  draws : t.draws = s.draws

theorem SameFields.refl (s : State) : SameFields s s := by constructor <;> rfl

theorem SameFields.trans {s t u : State} (h : SameFields s t) (g : SameFields t u) : SameFields s u := by
  constructor <;> simp [h.oe, h.pin, h.ses, h.reqr, h.tmr, h.cfg, h.inputs, h.waited, h.delivered, h.draws,
    g.oe, g.pin, g.ses, g.reqr, g.tmr, g.cfg, g.inputs, g.waited, g.delivered, g.draws]

theorem raise_same (c : Status) (s : State) : SameFields s (raise c s) := by
  rcases raise_cases c s with ⟨-, -, h⟩ | ⟨-, h⟩ <;> rw [h] <;> constructor <;> rfl

theorem transmit_same (v : Int) (d : Bool) (s : State) : SameFields s (transmit v d s) := by
  rcases transmit_cases v d s with ⟨-, h⟩ | ⟨-, h⟩ <;> rw [h]
  · constructor <;> rfl
  · exact raise_same _ _

theorem moveLoop_same (v : Int) (s : State) : SameFields s (moveLoop v s) := by
  unfold moveLoop; split
  · constructor <;> rfl
  · exact transmit_same _ _ _

theorem textLoop_same (s : State) : SameFields s (textLoop s) := by
  unfold textLoop; split <;> constructor <;> rfl

theorem setK_same (n : Arg) (s : State) : SameFields s (s.setK n) := by constructor <;> rfl

theorem drainWord_same (s : State) : SameFields s (drainWord s) := by
  unfold drainWord; split <;> constructor <;> rfl

theorem afterInit_same (s : State) : SameFields s (afterInit s) := by
  unfold afterInit; split
  · exact (setK_same _ _).trans (transmit_same _ _ _)
  · split
    · exact (setK_same _ _).trans (transmit_same _ _ _)
    · constructor <;> rfl

theorem afterTransmission_same (s : State) : SameFields s (afterTransmission s) := by
  unfold afterTransmission; split
  · exact afterInit_same s
  · exact (setK_same _ _).trans (moveLoop_same _ _)
  · exact (setK_same _ _).trans (moveLoop_same _ _)
  · exact textLoop_same s
  · constructor <;> rfl

/-- An edge in `P_ACQ` or `P_REL` leaves the request, the parameters, the samples and the draws alone. -/
theorem edgeAcq_same (x : PortIn) (s : State) :
    (edgeAcq x s).reqr = s.reqr ∧ (edgeAcq x s).cfg = s.cfg ∧ (edgeAcq x s).inputs = s.inputs ∧
      (edgeAcq x s).draws = s.draws := by
  have h := raise_same .deviceUnavailable (s.emit (.acq .fail))
  unfold edgeAcq
  split
  · simp
  · exact ⟨h.reqr, h.cfg, h.inputs, h.draws⟩
  · simp

theorem edgeRel_same (x : PortIn) (s : State) :
    (edgeRel x s).reqr = s.reqr ∧ (edgeRel x s).cfg = s.cfg ∧ (edgeRel x s).inputs = s.inputs ∧
      (edgeRel x s).draws = s.draws := by
  have hf := raise_same .deviceUnavailable { s with ses := false, trace := s.trace ++ [.rel .fail] }
  have ho := afterTransmission_same { s with ses := false, trace := s.trace ++ [.rel .ok] }
  unfold edgeRel
  split
  · simp
  · exact ⟨hf.reqr, hf.cfg, hf.inputs, hf.draws⟩
  · exact ⟨ho.reqr, ho.cfg, ho.inputs, ho.draws⟩

/-- An edge leaves the request, the parameters, the samples and the draws alone. -/
theorem advance_same (x : PortIn) (s : State) :
    (advance x s).reqr = s.reqr ∧ (advance x s).cfg = s.cfg ∧ (advance x s).inputs = s.inputs ∧
      (advance x s).draws = s.draws := by
  unfold advance
  split
  case h_4 => exact edgeAcq_same x s
  case h_13 => exact edgeRel_same x s
  all_goals first
    | exact ⟨rfl, rfl, rfl, rfl⟩
    | (simp only [edgeCfgoe, edgeCfglow, edgeSelect, edgeDrive, edgeSetup, edgeHigh, edgeFall, edgeReset, edgeRsp]
       split <;> simp)

end Sys2Proof.Machine
end

