-- ==== Sys2Proof/Laws/Transmission.lean ====
section
/-! SUPPORT. One transmission, once: where it stands in each phase, what an edge can make of it, and
the run of it with prompt agents. Every claim about an operation cites these. -/

namespace Sys2Proof.Machine

/-! ## Any agents -/

/-- The events of a transmission up to where it stands in a phase, with its waits so far. -/
def sentSoFar (v : Byte) (d : Bool) (t1 t2 : Nat) : Phase → List Event
  | .select => [.acq .ok]
  | .drive => [.acq .ok, .pin (frameBits d 0#8)]
  | .setup => [.acq .ok, .pin (frameBits d 0#8), .pin (frameBits d v)]
  | .high => [.acq .ok, .pin (frameBits d 0#8), .pin (frameBits d v), .wait t1, .pin (eBit ||| frameBits d v)]
  | .fall => [.acq .ok, .pin (frameBits d 0#8), .pin (frameBits d v), .wait t1, .pin (eBit ||| frameBits d v),
              .wait t2, .pin (frameBits d v)]
  | .reset | .rel =>
      [.acq .ok, .pin (frameBits d 0#8), .pin (frameBits d v), .wait t1, .pin (eBit ||| frameBits d v),
       .wait t2, .pin (frameBits d v), .pin 0x000#11]
  | .idle | .payload | .drain | .acq | .cfgoe | .cfglow | .rsp => []

/-- Whether the byte has been shown to the controller in this phase. -/
def shownBy : Phase → Bool
  | .fall | .reset | .rel => true
  | .idle | .payload | .drain | .acq | .cfgoe | .cfglow | .select | .drive | .setup | .high | .rsp => false

/-- A transmission of `v` in progress, begun with the trace `tr` and the delivered list `dl`. -/
structure Sending (c : Config) (v : Byte) (d : Bool) (tr : List Event) (dl : List Frame) (t1 t2 : Nat)
    (u : State) : Prop where
  phase : inTransmission u.phase = true ∨ u.phase = .acq ∨ u.phase = .rel
  val : u.val = v
  dm : u.dm = d
  cfg : u.cfg = c
  session : u.ses = holdsSession u.phase
  pins : u.pin = phasePins u
  trace : u.trace = tr ++ sentSoFar v d t1 t2 u.phase
  delivered : u.delivered = dl ++ if shownBy u.phase then [sentFrame v d] else []
  setup : u.phase = .setup → nSetup c ≤ u.waited + u.tmr
  high : u.phase = .high → nSetup c ≤ t1 ∧ nPulse c ≤ u.waited + u.tmr
  past : shownBy u.phase = true → nSetup c ≤ t1 ∧ nPulse c ≤ t2

/-- What the edges inside a transmission leave alone. -/
structure Kept (s t : State) : Prop where
  initf : t.initf = s.initf
  oe : t.oe = s.oe
  reqr : t.reqr = s.reqr
  k : t.k = s.k
  stat : t.stat = s.stat
  cfg : t.cfg = s.cfg
  inputs : t.inputs = s.inputs
  draws : t.draws = s.draws

theorem Kept.refl (s : State) : Kept s s := by constructor <;> rfl

theorem Kept.trans {s t u : State} (h : Kept s t) (g : Kept t u) : Kept s u :=
  ⟨g.initf.trans h.initf, g.oe.trans h.oe, g.reqr.trans h.reqr, g.k.trans h.k, g.stat.trans h.stat,
   g.cfg.trans h.cfg, g.inputs.trans h.inputs, g.draws.trans h.draws⟩

/-- A transmission begins where `transmit` has asked for the session. -/
theorem sending_of_acq {u : State} (hp : u.phase = .acq) (hs : u.ses = false) (hz : u.pin = 0x000#11) :
    Sending u.cfg u.val u.dm u.trace u.delivered 0 0 u := by
  constructor <;> simp [hp, hs, hz, holdsSession, phasePins, sentSoFar, shownBy]

/-- When a wait is over (R19, R75). -/
theorem waitOver_iff (x : PortIn) (u : State) : waitOver x u = true ↔ u.tmr ≤ 1 ∧ x.linger = false := by
  simp only [waitOver, Bool.and_eq_true, decide_eq_true_eq, Bool.not_eq_true']
  rw [countCycle_tmr, Nat.sub_eq_zero_iff_le]

/-- All an edge can make of a transmission in progress: the transmission goes on, with everything
else alone; or its acquisition has failed; or its release has been answered. -/
theorem sending_edge {c : Config} {v : Byte} {d : Bool} {tr : List Event} {dl : List Frame} {t1 t2 : Nat}
    {u : State} (x : PortIn) (h : Sending c v d tr dl t1 t2 u) (hc : u.phase = .acq → configuring u = false) :
    (∃ a b, Sending c v d tr dl a b (advance x u) ∧ Kept u (advance x u)) ∨
    (u.phase = .acq ∧ u.trace = tr ∧ u.delivered = dl ∧ u.pin = 0x000#11 ∧ u.ses = false ∧
      advance x u = raise .deviceUnavailable (u.emit (.acq .fail))) ∨
    (u.phase = .rel ∧ LongEnough c (t1, t2) ∧ u.delivered = dl ++ [sentFrame v d] ∧ u.pin = 0x000#11 ∧
      ((advance x u = raise .deviceUnavailable { u with ses := false, trace := tr ++ sent v d t1 t2 .fail }) ∨
       (advance x u = afterTransmission { u with ses := false, trace := tr ++ sent v d t1 t2 .ok }))) := by
  have hses := h.session
  have hpin := h.pins
  have htr := h.trace
  have hdl := h.delivered
  have hcfg := h.cfg
  have hval := h.val
  have hdm := h.dm
  have hpast := h.past
  rcases h.phase with hph | hp | hp
  · -- the phases between the two answers
    left
    have stay : advance x u = u → ∃ a b, Sending c v d tr dl a b (advance x u) ∧ Kept u (advance x u) := by
      intro he; rw [he]; exact ⟨t1, t2, h, Kept.refl u⟩
    cases hp : u.phase <;> simp only [hp, inTransmission, Bool.false_eq_true] at hph
    case select =>
      by_cases hl : x.linger = true
      · exact stay (by simp [advance, hp, edgeSelect, hl])
      · simp only [hp, holdsSession, phasePins, sentSoFar, shownBy] at hses hpin htr hdl
        have he : advance x u = { u with
            pin := frameBits d 0#8, trace := u.trace ++ [.pin (frameBits d 0#8)],
            phase := .drive } := by
          simp [advance, hp, edgeSelect, hl, pinWrite_open _ hses, hpin, writeLevels_select, hdm, State.goto]
        refine ⟨t1, t2, ?_, by rw [he]; constructor <;> rfl⟩
        rw [he]
        constructor <;> simp_all [inTransmission, holdsSession, phasePins, sentSoFar, shownBy]
    case drive =>
      by_cases hl : x.linger = true
      · exact stay (by simp [advance, hp, edgeDrive, hl])
      · simp only [hp, holdsSession, phasePins, sentSoFar, shownBy] at hses hpin htr hdl
        have he : advance x u = { u with
            pin := frameBits d v, trace := u.trace ++ [.pin (frameBits d v)],
            phase := .setup, tmr := nSetup c, waited := 0 } := by
          simp [advance, hp, edgeDrive, hl, pinWrite_open _ hses, hpin, writeLevels_drive, hdm, hval, hcfg,
            State.goto, startTimer]
        refine ⟨t1, t2, ?_, by rw [he]; constructor <;> rfl⟩
        rw [he]
        constructor <;> simp_all [inTransmission, holdsSession, phasePins, sentSoFar, shownBy]
    case setup =>
      have hw := h.setup hp
      simp only [hp, holdsSession, phasePins, sentSoFar, shownBy] at hses hpin htr hdl
      by_cases hl : waitOver x u = true
      · have hle : u.tmr ≤ 1 := ((waitOver_iff x u).1 hl).1
        have he : advance x u = { u with
            pin := eBit ||| frameBits d v,
            trace := u.trace ++ [.wait (u.waited + 1), .pin (eBit ||| frameBits d v)],
            phase := .high, tmr := nPulse c, waited := 0 } := by
          have hs2 : (endWait (countCycle u)).ses = true := by simp [hses]
          simp [advance, hp, edgeSetup, hl, pinWrite_open _ hs2, hpin, writeLevels_raise, hdm, hval, hcfg]
          simp [State.goto, startTimer]
        refine ⟨u.waited + 1, t2, ?_, by rw [he]; constructor <;> rfl⟩
        rw [he]
        constructor <;> simp_all [inTransmission, holdsSession, phasePins, sentSoFar, shownBy]
        omega
      · have he : advance x u = countCycle u := by simp [advance, hp, edgeSetup, hl]
        refine ⟨t1, t2, ?_, by rw [he]; constructor <;> rfl⟩
        rw [he]
        constructor <;> simp_all [inTransmission, holdsSession, phasePins, sentSoFar, shownBy]
        omega
    case high =>
      have hw := h.high hp
      simp only [hp, holdsSession, phasePins, sentSoFar, shownBy] at hses hpin htr hdl
      by_cases hl : waitOver x u = true
      · have hle : u.tmr ≤ 1 := ((waitOver_iff x u).1 hl).1
        have he : advance x u = { u with
            pin := frameBits d v,
            trace := u.trace ++ [.wait (u.waited + 1), .pin (frameBits d v)],
            phase := .fall, tmr := u.tmr - 1, waited := 0,
            delivered := u.delivered ++ [sentFrame v d] } := by
          have hs2 : (endWait (countCycle u)).ses = true := by simp [hses]
          simp [advance, hp, edgeHigh, hl, pinWrite_open _ hs2, hpin, writeLevels_lower, presented_high, hdm, hval]
          simp [State.goto, sentFrame]
        refine ⟨t1, u.waited + 1, ?_, by rw [he]; constructor <;> rfl⟩
        rw [he]
        constructor <;> simp_all [inTransmission, holdsSession, phasePins, sentSoFar, shownBy]
        omega
      · have he : advance x u = countCycle u := by simp [advance, hp, edgeHigh, hl]
        refine ⟨t1, t2, ?_, by rw [he]; constructor <;> rfl⟩
        rw [he]
        constructor <;> simp_all [inTransmission, holdsSession, phasePins, sentSoFar, shownBy]
        omega
    case fall =>
      by_cases hl : x.linger = true
      · exact stay (by simp [advance, hp, edgeFall, hl])
      · simp only [hp, holdsSession, phasePins, sentSoFar, shownBy] at hses hpin htr hdl
        have he : advance x u = { u with pin := 0x000#11, trace := u.trace ++ [.pin 0x000#11], phase := .reset } := by
          simp [advance, hp, edgeFall, hl, pinWrite_open _ hses, State.goto]
        refine ⟨t1, t2, ?_, by rw [he]; constructor <;> rfl⟩
        rw [he]
        constructor <;> simp_all [inTransmission, holdsSession, phasePins, sentSoFar, shownBy]
    case reset =>
      by_cases hl : x.linger = true
      · exact stay (by simp [advance, hp, edgeReset, hl])
      · simp only [hp, holdsSession, phasePins, sentSoFar, shownBy] at hses hpin htr hdl
        have he : advance x u = { u with phase := .rel } := by
          simp [advance, hp, edgeReset, hl, State.goto]
        refine ⟨t1, t2, ?_, by rw [he]; constructor <;> rfl⟩
        rw [he]
        constructor <;> simp_all [inTransmission, holdsSession, phasePins, sentSoFar, shownBy]
  · simp only [hp, holdsSession, phasePins, sentSoFar, shownBy] at hses hpin htr hdl
    cases ha : acqAnswer x.gpio true with
    | none =>
      left
      refine ⟨t1, t2, ?_⟩
      have he : advance x u = u := by simp [advance, hp, edgeAcq, wantsSession, ha]
      rw [he]; exact ⟨h, Kept.refl u⟩
    | some a =>
      cases a with
      | fail =>
        right; left
        refine ⟨hp, by simpa using htr, by simpa using hdl, hpin, hses, ?_⟩
        simp [advance, hp, edgeAcq, wantsSession, ha]
      | ok =>
        left
        have he : advance x u = { u with ses := true, trace := u.trace ++ [.acq .ok], phase := .select } := by
          simp [advance, hp, edgeAcq, wantsSession, ha, hc hp]
        refine ⟨t1, t2, ?_, by rw [he]; constructor <;> rfl⟩
        rw [he]
        constructor <;> simp_all [inTransmission, holdsSession, phasePins, sentSoFar, shownBy]
  · simp only [hp, holdsSession, phasePins, sentSoFar, shownBy] at hses hpin htr hdl hpast
    cases ha : relAnswer x.gpio false with
    | none =>
      left
      refine ⟨t1, t2, ?_⟩
      have he : advance x u = u := by simp [advance, hp, edgeRel, wantsSession, ha]
      rw [he]; exact ⟨h, Kept.refl u⟩
    | some a =>
      right; right
      refine ⟨hp, hpast trivial, by simpa using hdl, hpin, ?_⟩
      cases a with
      | fail => left; simp [advance, hp, edgeRel, wantsSession, ha, htr, sent]
      | ok => right; simp [advance, hp, edgeRel, wantsSession, ha, htr, sent]

/-! ## Prompt agents -/

theorem prompt_iff (x : PortIn) :
    prompt x = true ↔ x.rst = false ∧ x.linger = false ∧ x.rspReady = true ∧ x.gpio = .tied := by
  simp [prompt, and_assoc]

@[simp] theorem acqAnswer_tied : acqAnswer .tied true = some .ok := rfl
@[simp] theorem relAnswer_tied : relAnswer .tied false = some .ok := rfl

/-- One edge of prompt agents is `advance`. -/
theorem busyEdge_prompt {x : PortIn} (h : prompt x = true) (s : State) : busyEdge x s = advance x s := by
  simp [busyEdge, ((prompt_iff x).1 h).1]

/-- The setup wait with prompt agents: as many edges as `TMR` says. -/
theorem prompt_setup (n : Nat) : ∀ (ws rest : List PortIn) (s : State), ws.length = n + 1 →
    (∀ x ∈ ws, prompt x = true) → s.phase = .setup → s.ses = true → s.tmr = n + 1 →
    settleFrom (ws ++ rest) s = settleFrom rest { s with
      pin := writeLevels s.pin [(.e, true)], phase := .high, tmr := nPulse s.cfg, waited := 0,
      trace := s.trace ++ [.wait (s.waited + n + 1), .pin (writeLevels s.pin [(.e, true)])] } := by
  induction n with
  | zero =>
    intro ws rest s hl hp hph hs ht
    obtain ⟨x, rfl⟩ := List.length_eq_one_iff.1 hl
    have hx := hp x List.mem_cons_self
    have hover : waitOver x s = true := (waitOver_iff x s).2 ⟨by omega, ((prompt_iff x).1 hx).2.1⟩
    have hs2 : (endWait (countCycle s)).ses = true := by simp [hs]
    rw [List.singleton_append, settleFrom_busy _ _ (by rw [hph]; rfl), busyEdge_prompt hx]
    simp only [advance, hph, edgeSetup, hover, if_true, pinWrite_open _ hs2]
    simp [State.goto, startTimer, endWait, countCycle, ht]
  | succ n ih =>
    intro ws rest s hl hp hph hs ht
    cases ws with
    | nil => simp at hl
    | cons x ws =>
      have hx := hp x List.mem_cons_self
      have hover : waitOver x s = false := by
        rw [Bool.eq_false_iff, ne_eq, waitOver_iff]; omega
      have he : advance x s = countCycle s := by simp [advance, hph, edgeSetup, hover]
      rw [List.cons_append, settleFrom_busy _ _ (by rw [hph]; rfl), busyEdge_prompt hx, he,
        ih ws rest _ (by simpa using hl) (fun y hy => hp y (List.mem_cons_of_mem x hy)) (by simp [hph])
          (by simp [hs]) (by simp [ht])]
      simp only [countCycle]
      rw [show s.waited + 1 + n + 1 = s.waited + (n + 1) + 1 by omega]

/-- The pulse wait with prompt agents. -/
theorem prompt_high (n : Nat) : ∀ (ws rest : List PortIn) (s : State), ws.length = n + 1 →
    (∀ x ∈ ws, prompt x = true) → s.phase = .high → s.ses = true → s.tmr = n + 1 →
    settleFrom (ws ++ rest) s = settleFrom rest { s with
      pin := writeLevels s.pin [(.e, false)], phase := .fall, tmr := 0, waited := 0,
      trace := s.trace ++ [.wait (s.waited + n + 1), .pin (writeLevels s.pin [(.e, false)])],
      delivered := s.delivered ++ [presented s.pin] } := by
  induction n with
  | zero =>
    intro ws rest s hl hp hph hs ht
    obtain ⟨x, rfl⟩ := List.length_eq_one_iff.1 hl
    have hx := hp x List.mem_cons_self
    have hover : waitOver x s = true := (waitOver_iff x s).2 ⟨by omega, ((prompt_iff x).1 hx).2.1⟩
    have hs2 : (endWait (countCycle s)).ses = true := by simp [hs]
    rw [List.singleton_append, settleFrom_busy _ _ (by rw [hph]; rfl), busyEdge_prompt hx]
    simp only [advance, hph, edgeHigh, hover, if_true, pinWrite_open _ hs2]
    simp [State.goto, endWait, countCycle, ht]
  | succ n ih =>
    intro ws rest s hl hp hph hs ht
    cases ws with
    | nil => simp at hl
    | cons x ws =>
      have hx := hp x List.mem_cons_self
      have hover : waitOver x s = false := by
        rw [Bool.eq_false_iff, ne_eq, waitOver_iff]; omega
      have he : advance x s = countCycle s := by simp [advance, hph, edgeHigh, hover]
      rw [List.cons_append, settleFrom_busy _ _ (by rw [hph]; rfl), busyEdge_prompt hx, he,
        ih ws rest _ (by simpa using hl) (fun y hy => hp y (List.mem_cons_of_mem x hy)) (by simp [hph])
          (by simp [hs]) (by simp [ht])]
      simp only [countCycle]
      rw [show s.waited + 1 + n + 1 = s.waited + (n + 1) + 1 by omega]

/-- One transmission with prompt agents, from the request for its session to the answer to its
release. -/
theorem prompt_transmission (ws rest : List PortIn) (s : State) (hl : ws.length = transmissionCycles s.cfg)
    (hp : ∀ x ∈ ws, prompt x = true) (hph : s.phase = .acq) (hs : s.ses = false) (hz : s.pin = 0x000#11)
    (hc : configuring s = false) :
    settleFrom (ws ++ rest) s = settleFrom rest (afterTransmission { s with
      phase := .rel, tmr := 0, waited := 0,
      trace := s.trace ++ sent s.val s.dm (nSetup s.cfg) (nPulse s.cfg) .ok,
      delivered := s.delivered ++ [sentFrame s.val s.dm] }) := by
  obtain ⟨n, hn⟩ : ∃ n, nSetup s.cfg = n + 1 := ⟨_, (Nat.sub_add_cancel (one_le_nSetup s.cfg)).symm⟩
  obtain ⟨m, hm⟩ : ∃ m, nPulse s.cfg = m + 1 := ⟨_, (Nat.sub_add_cancel (one_le_nPulse s.cfg)).symm⟩
  obtain ⟨a, b, c, w1, w2, e, f, g, rfl, h1, h2⟩ : ∃ a b c w1 w2 e f g, ws = a :: b :: c :: (w1 ++ (w2 ++ [e, f, g]))
      ∧ w1.length = n + 1 ∧ w2.length = m + 1 := by
    simp only [transmissionCycles, hn, hm] at hl
    match ws, hl with
    | a :: b :: c :: tl, hl =>
      have htl : tl.length = n + 1 + (m + 1) + 3 := by simp at hl; omega
      have h3 : (tl.drop (n + 1 + (m + 1))).length = 3 := by simp [htl]
      match hd : tl.drop (n + 1 + (m + 1)), h3 with
      | [e, f, g], _ =>
        refine ⟨a, b, c, tl.take (n + 1), (tl.drop (n + 1)).take (m + 1), e, f, g, ?_, by simp; omega, by simp; omega⟩
        congr 3
        rw [← hd]
        conv_lhs => rw [← List.take_append_drop (n + 1) tl]
        congr 1
        conv_lhs => rw [← List.take_append_drop (m + 1) (tl.drop (n + 1))]
        rw [List.drop_drop]
  have ha := hp a (by simp)
  have hb := hp b (by simp)
  have hc' := hp c (by simp)
  have he := hp e (by simp)
  have hf := hp f (by simp)
  have hg := hp g (by simp)
  simp only [List.cons_append, List.append_assoc]
  -- `P_ACQ`
  rw [settleFrom_busy _ _ (by simp [hph, takesWord]), busyEdge_prompt ha]
  rw [show advance a s = { s with ses := true, trace := s.trace ++ [.acq .ok], phase := .select } by
    simp [advance, hph, edgeAcq, wantsSession, ((prompt_iff a).1 ha).2.2.2, hc]]
  -- `P_SELECT`
  rw [settleFrom_busy _ _ rfl, busyEdge_prompt hb]
  simp only [advance, edgeSelect, ((prompt_iff b).1 hb).2.1, Bool.false_eq_true, if_false]
  rw [pinWrite_open _ rfl]
  -- `P_DRIVE`
  rw [settleFrom_busy _ _ rfl, busyEdge_prompt hc']
  simp only [advance, edgeDrive, State.goto, ((prompt_iff c).1 hc').2.1, Bool.false_eq_true, if_false]
  rw [pinWrite_open _ rfl]
  -- the two waits
  rw [prompt_setup n w1 _ _ h1 (fun x hx => hp x (by simp [hx])) rfl rfl (by simp [startTimer, hn])]
  rw [prompt_high m w2 _ _ h2 (fun x hx => hp x (by simp [hx])) rfl rfl (by simp [startTimer, hm])]
  -- `P_FALL`
  simp only [List.nil_append]
  rw [settleFrom_busy _ _ rfl, busyEdge_prompt he]
  simp only [advance, edgeFall, ((prompt_iff e).1 he).2.1, Bool.false_eq_true, if_false]
  rw [pinWrite_open _ rfl]
  -- `P_RESET`
  rw [settleFrom_busy _ _ rfl, busyEdge_prompt hf]
  simp only [advance, edgeReset, State.goto, ((prompt_iff f).1 hf).2.1, Bool.false_eq_true, if_false]
  -- `P_REL`
  rw [settleFrom_busy _ _ rfl, busyEdge_prompt hg]
  simp only [advance, edgeRel, wantsSession, ((prompt_iff g).1 hg).2.2.2, relAnswer_tied]
  congr 2
  simp [startTimer, hz, hs, writeLevels_select, writeLevels_drive, writeLevels_raise, writeLevels_lower,
    presented_high, sent, sentFrame, hn, hm]

/-- One transmission with prompt agents, over the samples that are there. -/
theorem prompt_tx (l : List PortIn) (s : State) (hl : transmissionCycles s.cfg ≤ l.length)
    (hp : ∀ x ∈ l.take (transmissionCycles s.cfg), prompt x = true) (hph : s.phase = .acq) (hs : s.ses = false) (hz : s.pin = 0x000#11)
    (hc : configuring s = false) :
    settleFrom l s = settleFrom (l.drop (transmissionCycles s.cfg)) (afterTransmission { s with
      phase := .rel, tmr := 0, waited := 0,
      trace := s.trace ++ sent s.val s.dm (nSetup s.cfg) (nPulse s.cfg) .ok,
      delivered := s.delivered ++ [sentFrame s.val s.dm] }) := by
  have h := prompt_transmission (l.take (transmissionCycles s.cfg)) (l.drop (transmissionCycles s.cfg)) s (by simp; omega) hp hph hs hz hc
  rwa [List.take_append_drop] at h

/-- The response taken by a prompt host. -/
theorem prompt_rsp (l : List PortIn) (s : State) (hl : 1 ≤ l.length) (hp : ∀ x ∈ l.take 1, prompt x = true) (hph : s.phase = .rsp) :
    settleFrom l s = { s with phase := .idle, inputs := l.drop 1 } := by
  match l, hl with
  | x :: xs, _ =>
    have hx := hp x (by simp)
    rw [settleFrom_busy _ _ (by rw [hph]; rfl), busyEdge_prompt hx]
    simp only [advance, hph, edgeRsp, ((prompt_iff x).1 hx).2.2.1, if_true]
    rw [settleFrom_ready _ rfl]
    rfl

end Sys2Proof.Machine
end

