-- ==== Sys2Proof/Laws/Coherent.lean ====
section
/-! SUPPORT. The named operations and the invariant `Coherent`: each leads from the state between
two transmissions to a coherent state. -/

namespace Sys2Proof.Machine

/-- What an operation finds and leaves between its transmissions: session closed, lines low, enables
and timer as the invariant has them. -/
abbrev Base (s : State) : Prop := s.ses = false ∧ s.pin = 0#11 ∧ (s.oe = 0x000#11 ∨ s.oe = 0x7FF#11) ∧
  (s.initf = true → s.oe = 0x7FF#11) ∧ s.tmr < 2 ^ tmrWidth s.cfg

/-- The response to an operation. -/
theorem coherent_respond {c : Status} {s : State} (h : Base s) : Coherent (respond c s) := by
  obtain ⟨h1, h2, h3, h4, h5⟩ := h
  constructor <;> simp_all [holdsSession, phasePins, inTransmission]

/-- A drain, in a burst. -/
theorem coherent_drainThen {c : Status} {n : Arg} {s : State} (hc : c ≠ .ok) (hb : Base s)
    (hbu : inBurst s = true) : Coherent (drainThen c n s) := by
  rcases drainThen_cases c n s with ⟨hn, h⟩ | ⟨-, h⟩ <;> rw [h]
  · obtain ⟨h1, h2, h3, h4, h5⟩ := hb
    constructor <;> simp_all [holdsSession, phasePins, inTransmission]
    simp [inBurst] at hbu ⊢; exact hbu
  · exact coherent_respond hb

/-- An error that ends an operation. -/
theorem coherent_raise {c : Status} {s : State} (hc : c ≠ .ok) (hb : Base s) : Coherent (raise c s) := by
  unfold raise; split
  · exact coherent_drainThen hc hb ‹_›
  · exact coherent_respond hb

/-- The start of a transmission. -/
theorem coherent_transmit {v d} {s : State} (hb : Base s) (hg : decodeHeader s.reqr ≠ .ok .init → s.initf = true)
   (h4 : s.oe = 0x7FF#11) : Coherent (transmit v d s) := by
  rcases transmit_cases v d s with ⟨a, h⟩ | ⟨a, h⟩ <;> rw [h]
  · obtain ⟨h1, h2, h3, h4, h5⟩ := hb
    constructor <;> simp_all [holdsSession, phasePins, inTransmission]
  · exact coherent_raise (by simp) hb

/-- The loop of `CUR` and `CUL`. -/
theorem coherent_move {v} {s : State} (hb : Base s) (hg : decodeHeader s.reqr ≠ .ok .init → s.initf = true)
   (h4 : s.oe = 0x7FF#11) : Coherent (moveLoop v s) := by
  unfold moveLoop; split
  · exact coherent_respond hb
  · exact coherent_transmit hb hg h4

/-- The loop of `WRS`. -/
theorem coherent_text {s : State} (hb : Base s) (hi : s.initf = true) (hbu : inBurst s = true) : Coherent (textLoop s) := by
  unfold textLoop; split
  · exact coherent_respond hb
  · obtain ⟨h1, h2, h3, h4, h5⟩ := hb
    constructor <;> simp_all [holdsSession, phasePins, inTransmission]
    simp [inBurst] at hbu ⊢; exact hbu

/-- What follows a transmission. -/
theorem coherent_after {s : State} (hb : Base s) (hg : decodeHeader s.reqr ≠ .ok .init → s.initf = true)
   (h4 : s.oe = 0x7FF#11) : Coherent (afterTransmission s) := by
  unfold afterTransmission; split
  · unfold afterInit; split
    · exact coherent_transmit hb hg h4
    · split
      · exact coherent_transmit hb hg h4
      · exact coherent_respond ⟨hb.1, hb.2.1, hb.2.2.1, fun _ => h4, hb.2.2.2.2⟩
  · exact coherent_move hb hg h4
  · exact coherent_move hb hg h4
  · rename_i h
    exact coherent_text hb (hg (by simp [h])) (by simp [inBurst, h])
  · exact coherent_respond hb

/-- The invariant does not read the samples. -/
theorem coherent_inputs {s : State} (l) (h : Coherent s) : Coherent { s with inputs := l } := by
  obtain ⟨h1, h2, h3, h4, h5, h6, h7, h8, h9, h10, h11, h12, h13⟩ := h
  constructor <;> simp_all [phasePins, configuring, inBurst]

/-- Reset. -/
theorem coherent_reset (s : State) : Coherent (applyReset s) := by
  constructor <;> simp [holdsSession, phasePins, inTransmission]

/-- The guard in front of an operation. -/
theorem coherent_guardOr {r b : State → State} {s : State} (hr : Coherent (r s))
    (h : s.initf = true → Coherent (b s)) : Coherent (guardOr r b s) := by
  unfold guardOr; split
  · exact h ‹_›
  · exact hr

/-- The guard of every operation but `WRS`. -/
theorem coherent_guarded {b : State → State} {s : State} (hb : Base s)
    (h : s.initf = true → Coherent (b s)) : Coherent (guarded b s) :=
  coherent_guardOr (coherent_raise (by simp) hb) h

end Sys2Proof.Machine
end

