-- ==== Sys2Proof/Laws/PerInstr.lean ====
section
/-! SUPPORT. Statements made per instruction. The family `OpField`: the word of a request carries
the request's operation code in bits 47:40 and its operand field in bits 31:0 (R47, R48). -/

namespace Sys2Proof.Laws.OpField

/-- The fields of a request's word are the request's own. -/
def Statement (i : Instr) : Prop :=
  opField (encode i) = encodeOp i ∧ flField (encode i) = encodeFlags i ∧ argField (encode i) = encodeArg i

theorem all (i : Instr) : Statement i := by simp [Statement, encode]

theorem init : Statement .init := all _
theorem clr : Statement .clr := all _
theorem home : Statement .home := all _
theorem fmt (twoLines font5x11 : Bool) : Statement (.fmt twoLines font5x11) := all _
theorem disp (on cursor blink : Bool) : Statement (.disp on cursor blink) := all _
theorem cur (n : Int) : Statement (.cur n) := all _
theorem cul (n : Int) : Statement (.cul n) := all _
theorem pos (col : Int) (secondLine : Bool) : Statement (.pos col secondLine) := all _
theorem wrs (len : Int) : Statement (.wrs len) := all _
theorem tx (value : Int) (dataMode : Bool) : Statement (.tx value dataMode) := all _
theorem chr (cp : Int) : Statement (.chr cp) := all _

end Sys2Proof.Laws.OpField
end

