-- ==== Sys2Proof/Machine/Asm.lean ====
section
/-! DEFINITION. Reading one line of assembler text (`30_encoding.md` R60, R61): a mnemonic, then
operands separated by commas. What the spec leaves open of the spelling (spaces, letter case, a
quotation mark inside a quoted text) is fixed in log 22. -/

namespace Sys2Proof.Machine

/-- Without the spaces at its front. -/
def dropSpaces : List Char → List Char
  | [] => []
  | c :: cs => if c = ' ' then dropSpaces cs else c :: cs

/-- Without the spaces at either end. -/
def trim (cs : List Char) : List Char := (dropSpaces (dropSpaces cs).reverse).reverse

/-- The parts between commas; one part, empty, where there is nothing. -/
def splitCommas : List Char → List (List Char)
  | [] => [[]]
  | c :: cs =>
    match splitCommas cs with
    | [] => [[c]]
    | p :: ps => if c = ',' then [] :: p :: ps else (c :: p) :: ps

/-- The operands of a line; none where only spaces follow the mnemonic. -/
def operandsOf (cs : List Char) : List (List Char) :=
  if trim cs = [] then [] else (splitCommas cs).map trim

/-- The value of a digit, decimal or hexadecimal, in either case. -/
def digitValue (c : Char) : Option Nat :=
  if '0'.toNat ≤ c.toNat ∧ c.toNat ≤ '9'.toNat then some (c.toNat - '0'.toNat)
  else if 'A'.toNat ≤ c.toNat ∧ c.toNat ≤ 'F'.toNat then some (c.toNat - 'A'.toNat + 10)
  else if 'a'.toNat ≤ c.toNat ∧ c.toNat ≤ 'f'.toNat then some (c.toNat - 'a'.toNat + 10)
  else none

/-- The digits read so far, times the base, and the rest. -/
def readDigits (base : Nat) : Nat → List Char → Option Nat
  | n, [] => some n
  | n, c :: cs =>
    match digitValue c with
    | some d => if d < base then readDigits base (n * base + d) cs else none
    | none => none

/-- Decimal, or hexadecimal after `0x`; at least one digit. -/
def readNat : List Char → Option Nat
  | [] => none
  | ['0', 'x'] => none
  | '0' :: 'x' :: ds => readDigits 16 0 ds
  | ds => readDigits 10 0 ds

/-- An integer: a leading `-` for negatives. -/
def readInt : List Char → Option Int
  | '-' :: ds => (readNat ds).map fun n => -(n : Int)
  | ds => (readNat ds).map fun n => (n : Int)

/-- A Boolean: 0 or 1. -/
def readBool : List Char → Option Bool
  | ['0'] => some false
  | ['1'] => some true
  | _ => none

/-- All of a list of integers, or none. -/
def readInts : List (List Char) → Option (List Int)
  | [] => some []
  | p :: ps =>
    match readInt p, readInts ps with
    | some n, some ns => some (n :: ns)
    | _, _ => none

/-- What stands between a first and a last character, where both are there. -/
def between (first last : Char) (cs : List Char) : Option (List Char) :=
  match cs with
  | [] => none
  | c :: cs =>
    match cs.reverse with
    | [] => none
    | d :: ds => if c = first ∧ d = last then some ds.reverse else none

/-- The quotation mark. -/
def quote : Char := Char.ofNat 34

/-- A string operand: quoted text, its characters as their code points, or a bracketed list. -/
def readString (cs : List Char) : Option (List Int) :=
  match between quote quote cs with
  | some text => some (text.map fun c => (c.toNat : Int))
  | none =>
    match between '[' ']' cs with
    | some inside => readInts (operandsOf inside)
    | none => none

/-- A line of one integer operand. -/
def oneInt (make : Int → AsmLine) : List (List Char) → Option AsmLine
  | [a] => (readInt a).map make
  | _ => none

/-- A line of no operand. -/
def noOperand (line : AsmLine) : List (List Char) → Option AsmLine
  | [] => some line
  | _ => none

/-- The operands of `FMT`. -/
def readFmt : List (List Char) → Option AsmLine
  | [a, b] =>
    match readBool a, readBool b with
    | some t, some f => some (.fmt t f)
    | _, _ => none
  | _ => none

/-- The operands of `DISP`. -/
def readDisp : List (List Char) → Option AsmLine
  | [a, b, c] =>
    match readBool a, readBool b, readBool c with
    | some o, some u, some l => some (.disp o u l)
    | _, _, _ => none
  | _ => none

/-- The operands of `POS` and `TX`: an integer and a Boolean. -/
def intAndBool (make : Int → Bool → AsmLine) : List (List Char) → Option AsmLine
  | [a, b] =>
    match readInt a, readBool b with
    | some n, some f => some (make n f)
    | _, _ => none
  | _ => none

/-- One line of text, as characters (R60, R61). -/
def readLine (line : List Char) : Option AsmLine :=
  let cs := trim line
  let mnemonic := cs.takeWhile (· ≠ ' ')
  let rest := trim (cs.dropWhile (· ≠ ' '))
  let ops := operandsOf rest
  if mnemonic = ['I', 'N', 'I', 'T'] then noOperand .init ops
  else if mnemonic = ['C', 'L', 'R'] then noOperand .clr ops
  else if mnemonic = ['H', 'O', 'M', 'E'] then noOperand .home ops
  else if mnemonic = ['F', 'M', 'T'] then readFmt ops
  else if mnemonic = ['D', 'I', 'S', 'P'] then readDisp ops
  else if mnemonic = ['C', 'U', 'R'] then oneInt .cur ops
  else if mnemonic = ['C', 'U', 'L'] then oneInt .cul ops
  else if mnemonic = ['P', 'O', 'S'] then intAndBool .pos ops
  else if mnemonic = ['W', 'R', 'S'] then (readString rest).map .wrs
  else if mnemonic = ['T', 'X'] then intAndBool .tx ops
  else if mnemonic = ['W', 'R', 'C'] then oneInt .wrc ops
  else if mnemonic = ['C', 'M', 'D'] then oneInt .cmd ops
  else if mnemonic = ['D', 'A', 'T'] then oneInt .dat ops
  else none

/-- The words of one line of text; none where it is no line, or an operand does not fit (R60). -/
def assembleText (line : List Char) : Option (List ReqWord) :=
  match readLine line with
  | some l => assemble l
  | none => none

end Sys2Proof.Machine
end

