-- ==== Sys2Proof/Tests/Slice0.lean ====
section
/-! SUPPORT. Tests of the model's own work, and a witness for every statement that has hypotheses.
Expected results are the vectors of `95_test_vectors.md` and the tables of `30_encoding.md`. The
clock of these states is 1 hertz, so that each wait is one edge. -/

namespace Sys2Proof.Tests

open Sys2Proof.Machine

/-! ## Small states -/

/-- `n` edges of agents that answer at once (and keep offering the word 0). -/
def promptEdges (n : Nat) : List PortIn := List.replicate n (offerPrompt 0#48)

/-- A clock of 1 hertz. -/
def slow : Config := { exampleConfig with clkHz := 1 }

/-- Right after reset, with prompt agents. -/
def fresh : State := { State.reset with cfg := slow, inputs := promptEdges 40 }

/-- "ready" of `95_test_vectors.md`. -/
def ready : State := { fresh with initf := true, oe := 0x7FF#11 }

/-- Waiting for the first of `k` characters. -/
def awaiting (k : Arg) : State := { ready with phase := .payload, reqr := encode (.wrs 3), k := k }

/-- A GPIO access layer that refuses, the host prompt. -/
def refusing : PortIn := { offerPrompt 0#48 with gpio := .levels false true }

/-- A GPIO access layer that says nothing and is not held. -/
def silent : PortIn := { offerPrompt 0#48 with gpio := .levels false false, rspReady := false }

/-- A GPIO access layer that keeps its grant up. -/
def granting : PortIn := { offerPrompt 0#48 with gpio := .levels true false, rspReady := false }

/-- An edge with reset. -/
def resetting : PortIn := { offerPrompt 0#48 with rst := true }

/-- The next state, if there is one. -/
def nextOf : Host.Outcome State Fault Refusal → Option State
  | .next s => some s
  | .fault _ => none
  | .refused _ => none

/-- What an outcome shows: phase, status, delivered bytes with their RS level. -/
def shows (o : Host.Outcome State Fault Refusal) : Option (Phase × Status × List (Bool × Byte)) :=
  (nextOf o).map fun t => (t.phase, t.stat, t.delivered.map fun f => (f.rs, f.d))

/-! ## Ill-formed requests (R49, R55 (d)) -/

theorem test_illformed_cur : (Instr.cur 2147483648).wellFormed = false := by decide
theorem test_illformed_cul : (Instr.cul (-2147483649)).wellFormed = false := by decide
theorem test_illformed_pos : (Instr.pos 2147483648 true).wellFormed = false := by decide
theorem test_illformed_wrs_negative : (Instr.wrs (-1)).wellFormed = false := by decide
theorem test_illformed_wrs_long : (Instr.wrs 2147483648).wellFormed = false := by decide
theorem test_illformed_tx : (Instr.tx 4294967295 false).wellFormed = false := by decide
theorem test_illformed_chr : (Instr.chr (-2147483649)).wellFormed = false := by decide
theorem test_illformed_cannot_assemble : assemble (.tx 2147483648 false) = none := by decide

/-! ## Decoding of words written out by hand (R47 to R51) -/

theorem test_decode_init : decodeHeader 0x010000000000#48 = .ok .init := by decide
theorem test_decode_clr : decodeHeader 0x020000000000#48 = .ok .clr := by decide
theorem test_decode_home : decodeHeader 0x030000000000#48 = .ok .home := by decide
theorem test_decode_fmt : decodeHeader 0x040800000000#48 = .ok (.fmt true false) := by decide
theorem test_decode_disp : decodeHeader 0x050600000000#48 = .ok (.disp true true false) := by decide
theorem test_decode_cur : decodeHeader 0x060000000003#48 = .ok (.cur 3) := by decide
theorem test_decode_cul : decodeHeader 0x0700FFFFFFFE#48 = .ok (.cul (-2)) := by decide
theorem test_decode_pos : decodeHeader 0x084000000005#48 = .ok (.pos 5 true) := by decide
theorem test_decode_wrs : decodeHeader 0x090000000002#48 = .ok (.wrs 2) := by decide
theorem test_decode_tx : decodeHeader 0x0A0100000041#48 = .ok (.tx 0x41 true) := by decide
theorem test_decode_chr : decodePayload 0xFFFF00000041#48 = .chr 0x41 := by decide
theorem test_decode_chr_negative : decodePayload 0x0000FFFFFFFF#48 = .chr (-1) := by decide

/-- The words of `95_test_vectors.md` 2.10, with the clause of R55 each breaks. -/
theorem test_illegal_words :
    decodeHeader 0x000000000000#48 = .error .operation ∧ decodeHeader 0x0B0000000000#48 = .error .operation ∧
    decodeHeader 0xFF0000000000#48 = .error .operation ∧ decodeHeader 0x020100000000#48 = .error .flags ∧
    decodeHeader 0x020000000001#48 = .error .argument ∧ decodeHeader 0x041000000000#48 = .error .flags ∧
    decodeHeader 0x050800000000#48 = .error .flags ∧ decodeHeader 0x080100000003#48 = .error .flags ∧
    decodeHeader 0x060100000001#48 = .error .flags ∧ decodeHeader 0x0A0200000005#48 = .error .flags ∧
    decodeHeader 0x0900FFFFFFFF#48 = .error .length := by decide

theorem test_encode_words :
    encode .init = 0x010000000000#48 ∧ encode (.fmt true true) = 0x040C00000000#48 ∧
    encode (.disp true false true) = 0x050500000000#48 ∧ encode (.cur (-2)) = 0x0600FFFFFFFE#48 ∧
    encode (.pos (-1) false) = 0x0800FFFFFFFF#48 ∧ encode (.tx 300 false) = 0x0A000000012C#48 ∧
    encode (.chr 0x20AC) = 0x0000000020AC#48 := by decide

theorem test_table_words :
    decodeTableWord 48 0x020000000000 = some .clr ∧ decodeTableWord 48 0x41 = some (.chr 0x41) := by decide

/-! ## Assembler lines (R60, R61; `95_test_vectors.md`) -/

theorem test_line_pos : assembleText "POS 5, 1".toList = some [0x084000000005#48] := by decide
theorem test_line_text :
    assembleText "WRS \"Hi\"".toList = some [0x090000000002#48, 0x000000000048#48, 0x000000000069#48] := by decide
theorem test_line_list :
    assembleText "WRS [0x41, -1]".toList = some [0x090000000002#48, 0x000000000041#48, 0x0000FFFFFFFF#48] := by
  decide
theorem test_line_pseudo :
    assembleText "DAT -1".toList = some [0x0A01FFFFFFFF#48] ∧ assembleText "CMD 0x06".toList = some [0x0A0000000006#48] := by
  decide
theorem test_line_refused :
    assembleText "POS 5".toList = none ∧ assembleText "FMT 2, 0".toList = none ∧ assembleText "CLR 1".toList = none := by
  decide

/-! ## The bit string (`95_test_vectors.md` 2.1) -/

theorem test_bit_string :
    bitString 65 = .ok ['0', '1', '0', '0', '0', '0', '0', '1'] ∧ bitString 256 = .error .invalidCommand ∧
    bitString (-1) = .error .invalidCommand := by decide
theorem test_lines_of_0xC5 :
    writeLevels 0x100#11 (driveWrites (byteOf 197)) = 0x1C5#11 := by decide

/-! ## The response codes (R52) -/

theorem test_status_numbers :
    statusCode .ok = 0#3 ∧ statusCode .deviceUnavailable = 1#3 ∧ statusCode .notInitialized = 2#3 ∧
    statusCode .invalidCommand = 3#3 ∧ statusCode .badRequest = 4#3 := by decide

/-! ## The derived counts (R4) -/

theorem test_counts :
    nSetup exampleConfig = 500 ∧ nPulse exampleConfig = 1 ∧
    nSetup { exampleConfig with clkHz := 50000000 } = 25000 ∧ nPulse { exampleConfig with clkHz := 50000000 } = 25 := by
  decide

/-! ## Operations (`95_test_vectors.md` 2.2 to 2.10) -/

theorem test_tx_trace :
    ((nextOf (exec (.tx 0x41 true) ready)).map (·.trace)) = some [.acq .ok, .pin 0x100#11, .pin 0x141#11, .wait 1,
      .pin 0x541#11, .wait 1, .pin 0x141#11, .pin 0x000#11, .rel .ok, .rsp .ok] := by decide
theorem test_tx_release_fails :
    shows (exec (.tx 0x41 true) { ready with inputs := promptEdges 7 ++ [refusing, refusing] })
      = some (.idle, .deviceUnavailable, [(true, 0x41#8)]) := by decide
theorem test_clr : shows (exec .clr ready) = some (.idle, .ok, [(false, 0x01#8)]) := by decide
theorem test_clr_before_init :
    ((nextOf (exec .clr fresh)).map (·.trace)) = some [.rsp .notInitialized] := by decide
theorem test_home : shows (exec .home ready) = some (.idle, .ok, [(false, 0x02#8)]) := by decide
theorem test_fmt : shows (exec (.fmt true false) ready) = some (.idle, .ok, [(false, 0x38#8)]) := by decide
theorem test_fmt_font : shows (exec (.fmt false true) ready) = some (.idle, .ok, [(false, 0x34#8)]) := by decide
theorem test_disp : shows (exec (.disp true true false) ready) = some (.idle, .ok, [(false, 0x0E#8)]) := by decide
theorem test_disp_blink : shows (exec (.disp false false true) ready) = some (.idle, .ok, [(false, 0x09#8)]) := by
  decide
theorem test_cur :
    shows (exec (.cur 3) ready) = some (.idle, .ok, [(false, 0x14#8), (false, 0x14#8), (false, 0x14#8)]) := by decide
theorem test_cur_second_acquisition_fails :
    shows (exec (.cur 3) { ready with inputs := promptEdges 8 ++ [refusing, refusing] })
      = some (.idle, .deviceUnavailable, [(false, 0x14#8)]) := by decide
theorem test_cul : shows (exec (.cul 2) ready) = some (.idle, .ok, [(false, 0x10#8), (false, 0x10#8)]) := by decide
theorem test_cul_negative : ((nextOf (exec (.cul (-2)) ready)).map (·.trace)) = some [.rsp .ok] := by decide
theorem test_pos : shows (exec (.pos 5 true) ready) = some (.idle, .ok, [(false, 0xC5#8)]) := by decide
theorem test_pos_values :
    posValue 64 false = 0xC0 ∧ posValue 127 false = 0xFF ∧ posValue 128 false = 0x80 ∧ posValue 256 false = 0x180 ∧
    posValue 256 true = 0x1C0 ∧ posValue (-1) false < 0 := by decide
theorem test_wrs_header : shows (exec (.wrs 3) ready) = some (.payload, .ok, []) := by decide
theorem test_wrs_before_init : shows (exec (.wrs 2) fresh) = some (.drain, .notInitialized, []) := by decide
theorem test_wrs_empty_before_init :
    ((nextOf (exec (.wrs 0) { fresh with k := 5#32 })).map fun t => (t.phase, t.stat, t.k))
      = some (.idle, .notInitialized, 5#32) := by decide
theorem test_chr : shows (exec (.chr 0x41) (awaiting 3)) = some (.payload, .ok, [(true, 0x41#8)]) := by decide
theorem test_chr_out_of_range :
    shows (exec (.chr 0x100) (awaiting 2)) = some (.drain, .invalidCommand, []) := by decide
theorem test_init :
    shows (exec .init fresh) = some (.idle, .ok, [(false, 0x01#8), (false, 0x02#8)]) ∧
    ((nextOf (exec .init fresh)).map fun t => (t.initf, t.oe, t.pin, t.ses)) = some (true, 0x7FF#11, 0x000#11, false) := by
  decide
theorem test_init_first_release_fails :
    ((nextOf (exec .init { fresh with inputs := promptEdges 3 ++ [refusing, refusing] })).map fun t =>
      (t.trace, t.oe, t.initf, t.stat)) = some
        ([.acq .ok, .oe 0x7FF#11, .pin 0x000#11, .rel .fail, .rsp .deviceUnavailable], 0x7FF#11, false,
          .deviceUnavailable) := by decide

/-! ## Steps -/

theorem test_step_bad_request :
    shows (step fresh) = some (.idle, .badRequest, []) := by decide
theorem test_step_fetched_clr :
    ((nextOf (step (State.reset.withFetchWord 48 0x020000000000))).map fun t => (t.phase, t.stat))
      = some (.rsp, .notInitialized) := by decide
theorem test_step_fetched_chr :
    ((nextOf (step (State.reset.withFetchWord 48 0x41))).map fun t => (t.phase, t.val, t.dm)) = some (.acq, 0x41#8, true) := by
  decide
theorem test_step_waits_in_acq :
    ((nextOf (step { ready with phase := .acq, inputs := [silent, silent] })).map (·.phase)) = some .acq := by decide
theorem test_step_reset_wins :
    ((nextOf (step { ready with phase := .acq, inputs := [resetting] })).map fun t => (t.phase, t.initf, t.oe))
      = some (.idle, false, 0x000#11) := by decide

/-! ## Witnesses: states and operands that meet the hypotheses of the statements -/

/-- In `P_SETUP` of a transmission of 0x41 as data, its last cycle. -/
def settingUp : State :=
  { ready with phase := .setup, ses := true, pin := 0x141#11, val := 0x41#8, dm := true, tmr := 1,
               reqr := encode (.tx 0x41 true) }

/-- In `P_HIGH` of the same transmission, its last cycle. -/
def pulsing : State := { settingUp with phase := .high, pin := 0x541#11 }

/-- In `P_ACQ` of the same transmission. -/
def asking : State :=
  { ready with phase := .acq, val := 0x41#8, dm := true, reqr := encode (.tx 0x41 true) }

/-- In `P_REL` of the last session of an `INIT`. -/
def finishing : State :=
  { fresh with phase := .rel, ses := true, oe := 0x7FF#11, reqr := encode .init, k := 1#32, val := 0x02#8 }

/-- In `P_DRAIN` with `k` words still to take. -/
def draining (k : Arg) : State := { awaiting k with phase := .drain, stat := .invalidCommand }

/-- The invariant of a state, clause by clause. -/
theorem coherent_fresh : Coherent fresh := by
  constructor <;> decide
theorem coherent_ready : Coherent ready := by
  constructor <;> decide
theorem coherent_awaiting : Coherent (awaiting 1#32) := by
  constructor <;> decide
theorem coherent_settingUp : Coherent settingUp := by
  constructor <;> decide
theorem coherent_pulsing : Coherent pulsing := by
  constructor <;> decide

theorem witness_DecodeOfEncodeIsTheRequest :
    (Instr.pos (-2147483648) true).wellFormed = true ∧ (Instr.pos (-2147483648) true).isHeader = true ∧
    (Instr.wrs 2147483647).wellFormed = true ∧ (Instr.wrs 0).wellFormed = true := by decide
theorem witness_EncodeOfDecodeIsTheWord : decodeHeader 0x0A01FFFFFFFF#48 = .ok (.tx (-1) true) := by decide
theorem witness_IllegalHeadersAnswerBadRequest :
    usableConfig fresh.cfg = true ∧ fresh.inputs = offerPrompt 0#48 :: promptEdges 39 ∧
    (offerPrompt 0#48).rst = false ∧ (offerPrompt 0#48).reqValid = true ∧ fresh.phase = .idle ∧
    decodeHeader (offerPrompt 0#48).reqData = .error .operation := by decide
theorem witness_PayloadWordsAreReadByTheirLowBits :
    (Phase.drain = .payload ∨ Phase.drain = .drain) ∧ fitsArg (-2147483648) = true ∧ fitsArg 2147483647 = true := by
  decide
theorem witness_PseudoInstructionsAreAbbreviations :
    [0x41, -1].length ≤ 2147483647 ∧ ∀ c ∈ [(0x41 : Int), -1], fitsArg c = true := by decide
theorem witness_StepRunsTheDecodedHeader :
    let s := { fresh with inputs := offerPrompt 0x010000000000#48 :: promptEdges 3 }
    usableConfig s.cfg = true ∧ s.inputs = offerPrompt 0x010000000000#48 :: promptEdges 3 ∧
    (offerPrompt 0x010000000000#48).rst = false ∧ (offerPrompt 0x010000000000#48).reqValid = true ∧ s.phase = .idle ∧
    decodeHeader (offerPrompt 0x010000000000#48).reqData = .ok .init := by decide
theorem witness_StepRunsThePayloadWord :
    usableConfig (awaiting 1).cfg = true ∧ (awaiting 1).inputs = offerPrompt 0#48 :: promptEdges 39 ∧
    (offerPrompt 0#48).rst = false ∧ (offerPrompt 0#48).reqValid = true ∧
    ((awaiting 1).phase = .payload ∨ (awaiting 1).phase = .drain) ∧ (draining 1).phase = .drain := by decide
theorem witness_StepIsAWholeNumberOfClockEdges : ∃ t, step fresh = .next t ∧ fresh.inputs ≠ [] :=
  ⟨_, rfl, by decide⟩
theorem witness_OnlyAnUnusableConfigurationIsRefused :
    usableConfig slow = true ∧ usableConfig { slow with clkHz := 0 } = false ∧
    usableConfig { slow with bind := #v[0, 1, 2, 3, 4, 5, 6, 7, 8, 9, 9] } = false ∧
    usableConfig { slow with outputLines := List.range 10 } = false := by decide
theorem witness_ResetWinsAtEveryEdge : resetting.rst = true := by decide
theorem witness_ResetAbandonsTheOperation :
    resetting.rst = true ∧ level settingUp.pin .e = false ∧ level pulsing.pin .e = true := by decide
theorem witness_EveryStepKeepsTheInvariant : ∃ t, Coherent pulsing ∧ step pulsing = .next t :=
  ⟨_, coherent_pulsing, rfl⟩
theorem witness_EveryClockEdgeKeepsTheInvariant : Coherent settingUp := coherent_settingUp
theorem witness_IdleMeansClosedAndLow :
    Coherent ready ∧ (clockEdges 0 ready).phase = .idle ∧ (clockEdges 0 ready).oe ≠ 0x000#11 :=
  ⟨coherent_ready, by decide, by decide⟩
theorem witness_LinesChangeOnlyInASession :
    (clockEdge (offerPrompt 0#48) settingUp).pin ≠ settingUp.pin ∧ (clockEdge resetting ready).oe ≠ ready.oe := by
  decide
theorem witness_LinesAreStableAroundThePulse :
    Coherent pulsing ∧ (offerPrompt 0#48).rst = false ∧ level pulsing.pin .e = true ∧ Coherent settingUp ∧
    level settingUp.pin .e = false ∧ level (clockEdge (offerPrompt 0#48) settingUp).pin .e = true :=
  ⟨coherent_pulsing, by decide, by decide, coherent_settingUp, by decide, by decide⟩
theorem witness_OnlyInitInitialises :
    resetting.rst = true ∧ (offerPrompt 0#48).rst = false ∧ ready.initf = true ∧ finishing.initf = false ∧
    (clockEdge (offerPrompt 0#48) finishing).initf = true := by decide
theorem witness_PortsAreReadOnlyInTheirPhases :
    let x := offerPrompt 0#48
    let y := { offerPrompt 0x020000000000#48 with rspReady := false, gpio := .levels false true }
    x.rst = y.rst ∧ x.linger = y.linger ∧
    ((outputs settingUp).reqReady = true → x.reqValid = y.reqValid ∧ x.reqData = y.reqData) ∧
    (settingUp.phase = .rsp → x.rspReady = y.rspReady) ∧
    (settingUp.phase = .acq ∨ settingUp.phase = .rel → x.gpio = y.gpio) := by decide
theorem witness_WaitsAreNeverShort :
    ∃ t, Coherent settingUp ∧ waitsKept settingUp.cfg settingUp.trace = true ∧ step settingUp = .next t :=
  ⟨_, coherent_settingUp, by decide, rfl⟩
theorem witness_DeliveredIsWhatTheTraceShows :
    (∃ t, Coherent ready ∧ takesWord ready.phase = true ∧ (Instr.clr.isHeader = true ↔ ready.phase = .idle) ∧
      NoReset ready ∧ exec .clr ready = .next t) ∧
    (∃ t, Coherent (awaiting 1) ∧ takesWord (awaiting 1).phase = true ∧
      ((Instr.chr 3).isHeader = true ↔ (awaiting 1).phase = .idle) ∧ NoReset (awaiting 1) ∧
      exec (.chr 3) (awaiting 1) = .next t) :=
  ⟨⟨_, coherent_ready, by decide, by decide, by decide, rfl⟩, ⟨_, coherent_awaiting, by decide, by decide, by decide, rfl⟩⟩
theorem witness_OneResponsePerHeader :
    (∃ t, Instr.clr.isHeader = true ∧ ready.phase = .idle ∧ NoReset ready ∧ exec .clr ready = .next t ∧
      t.phase = .idle) ∧
    (∃ t, exec (.wrs 2) ready = .next t ∧ t.phase = .payload) ∧
    (∃ t, exec (.wrs 2) fresh = .next t ∧ t.phase = .drain) ∧
    (∃ t, InText (awaiting 2) ∧ NoReset (awaiting 2) ∧ exec (.chr 0x41) (awaiting 2) = .next t ∧ t.phase = .payload) ∧
    (∃ t, InText (awaiting 1) ∧ exec (.chr 0x41) (awaiting 1) = .next t ∧ t.phase = .idle) ∧
    (∃ t, (draining 1).phase = .drain ∧ NoReset (draining 1) ∧ exec (.chr 0x41) (draining 1) = .next t ∧
      t.phase = .idle) :=
  ⟨⟨_, by decide, by decide, by decide, rfl, by decide⟩, ⟨_, rfl, by decide⟩, ⟨_, rfl, by decide⟩,
    ⟨_, by decide, by decide, rfl, by decide⟩, ⟨_, by decide, rfl, by decide⟩, ⟨_, by decide, by decide, rfl, by decide⟩⟩
theorem witness_AcquireAnswers :
    asking.phase = .acq ∧ refusing.rst = false ∧ errOf refusing.gpio = true ∧
    errOf (offerPrompt 0#48).gpio = false ∧ gntOf (offerPrompt 0#48).gpio true = true ∧
    silent.rst = false ∧ errOf silent.gpio = false ∧ gntOf silent.gpio true = false := by decide
theorem witness_ReleaseAnswers :
    finishing.phase = .rel ∧ refusing.rst = false ∧ errOf refusing.gpio = true ∧
    errOf (offerPrompt 0#48).gpio = false ∧ gntOf (offerPrompt 0#48).gpio false = false ∧
    granting.rst = false ∧ errOf granting.gpio = false ∧ gntOf granting.gpio false = true := by decide
theorem witness_SilentGpioLayerHangsTheBlock :
    (∃ t, let s := { asking with inputs := [silent, silent] }
      usableConfig s.cfg = true ∧ NoReset s ∧ s.phase = .acq ∧
      (∀ x ∈ s.inputs, errOf x.gpio = false ∧ gntOf x.gpio true = false) ∧ step s = .next t) ∧
    (∃ t, let s := { finishing with inputs := [granting] }
      usableConfig s.cfg = true ∧ NoReset s ∧ s.phase = .rel ∧
      (∀ x ∈ s.inputs, errOf x.gpio = false ∧ gntOf x.gpio false = true) ∧ step s = .next t) :=
  ⟨⟨_, by decide, by decide, by decide, by decide, rfl⟩, ⟨_, by decide, by decide, by decide, by decide, rfl⟩⟩
theorem witness_ResponseIsHeldUntilTaken :
    (∃ t, let s := { ready with phase := .rsp, inputs := [silent, silent] }
      usableConfig s.cfg = true ∧ NoReset s ∧ s.phase = .rsp ∧ (∀ x ∈ s.inputs, x.rspReady = false) ∧
      step s = .next t) ∧
    (offerPrompt 0#48).rst = false ∧ (offerPrompt 0#48).rspReady = true ∧ ready.stat = .ok ∧
    (draining 1).stat = .invalidCommand :=
  ⟨⟨_, by decide, by decide, by decide, by decide, rfl⟩, by decide, by decide, by decide, by decide⟩
theorem witness_TimerCountsTheWaits :
    let driving := { settingUp with phase := .drive, pin := 0x100#11 }
    (offerPrompt 0#48).rst = false ∧
    (clockEdge (offerPrompt 0#48) driving).phase = .setup ∧ driving.phase ≠ .setup ∧
    (clockEdge (offerPrompt 0#48) settingUp).phase = .high ∧ settingUp.phase ≠ .high ∧
    (clockEdge { offerPrompt 0#48 with linger := true } settingUp).phase = settingUp.phase ∧
    (ready.phase ≠ .setup ∧ ready.phase ≠ .drive ∧ ready.phase ≠ .high) := by decide
theorem witness_CycleCountsAreTheCeilings :
    0 < slow.clkHz ∧ 1 ≤ 1 ∧ 500000 * slow.clkHz ≤ 1 * 1000000000 ∧ 500 * slow.clkHz ≤ 1 * 1000000000 := by decide
theorem witness_DrivenLinesCarryPin :
    lineLevel settingUp 6 = some true ∧ level settingUp.oe .d6 = true ∧ padsKnown settingUp.trace = true ∧
    lineLevel ready 10 = some false ∧ usableConfig ready.cfg = true ∧ level ready.oe .e = true ∧
    padsKnown ready.trace = true := by decide
theorem witness_StringIndexDrivesTheReversedLine :
    (0 : Int) ≤ 0 ∧ (0 : Int) ≤ 255 ∧ (255 : Int) ≤ 255 ∧ ((-1 : Int) < 0 ∨ (255 : Int) < -1) ∧
    ((256 : Int) < 0 ∨ (255 : Int) < 256) := by decide
theorem witness_ComposedValuesAreTheControlBytes :
    singleByte (.pos 0 true) = some (0xC0#8, false) ∧ singleByte (.pos 255 false) = some (0xFF#8, false) ∧
    singleByte (.tx 255 true) = some (0xFF#8, true) ∧ singleByte (.fmt true true) = some (0x3C#8, false) ∧
    singleByte (.disp true true true) = some (0x0F#8, false) := by decide
theorem witness_OutOfRangeIsInvalidCommand :
    ready.initf = true ∧ ((256 : Int) < 0 ∨ (255 : Int) < 256) ∧ ((-1 : Int) < 0 ∨ (255 : Int) < -1) := by decide
theorem witness_GuardRefusesBeforeInit :
    fresh.initf = false ∧ (Instr.tx 300 false).wellFormed = true ∧ (Instr.tx 300 false).isHeader = true ∧
    Instr.tx 300 false ≠ .init ∧ (Instr.wrs 0).wellFormed = true ∧ (Instr.wrs 1).wellFormed = true := by decide
theorem witness_RaisingAnErrorEndsTheOperation :
    (inBurst (awaiting 1) = true ∧ (awaiting 1).k ≠ 0#32) ∧ (inBurst (awaiting 0) = true ∧ (awaiting 0).k = 0#32) ∧
    inBurst asking = false := by decide
theorem witness_SingleCommandsComplete :
    singleByte .clr = some (0x01#8, false) ∧ Idle ready ∧ ready.initf = true ∧
    PromptFor (transmissionCycles ready.cfg + 1) ready ∧ singleByte (.pos 255 true) = some (0xFF#8, false) ∧
    singleByte (.tx 0 false) = some (0x00#8, false) := by decide
theorem witness_RepeatedCommandsComplete :
    moveByte (.cur 3) = some (0x14#8, 3) ∧ (Instr.cur 3).wellFormed = true ∧ Idle ready ∧ ready.initf = true ∧
    PromptFor ((3 : Int).toNat * transmissionCycles ready.cfg + 1) ready ∧
    moveByte (.cul 0) = some (0x10#8, 0) ∧ PromptFor ((0 : Int).toNat * transmissionCycles ready.cfg + 1) ready ∧
    moveByte (.cul (-1)) = some (0x10#8, -1) ∧ (Instr.cul (-1)).wellFormed = true := by decide
theorem witness_InitCompletes :
    Idle fresh ∧ PromptFor (4 + 2 * transmissionCycles fresh.cfg + 1) fresh ∧ Idle ready := by decide
theorem witness_StringHeaderCompletes :
    (Instr.wrs 1).wellFormed = true ∧ ready.initf = true ∧ (0 : Int) < 1 ∧ (Instr.wrs 0).wellFormed = true ∧
    PromptFor 1 ready := by decide
theorem witness_CharacterCompletes :
    (0 : Int) ≤ 0 ∧ (255 : Int) ≤ 255 ∧ InText (awaiting 2) ∧ (awaiting 2).k ≠ 1#32 ∧
    PromptFor (transmissionCycles (awaiting 2).cfg) (awaiting 2) ∧ InText (awaiting 1) ∧ (awaiting 1).k = 1#32 ∧
    PromptFor (transmissionCycles (awaiting 1).cfg + 1) (awaiting 1) := by decide
theorem witness_BadCharacterEndsTheString :
    ((-1 : Int) < 0 ∨ (255 : Int) < -1) ∧ ((256 : Int) < 0 ∨ (255 : Int) < 256) ∧ InText (awaiting 2) ∧
    (awaiting 2).k ≠ 1#32 ∧ InText (awaiting 1) ∧ (awaiting 1).k = 1#32 ∧ PromptFor 1 (awaiting 1) := by decide
theorem witness_DrainedWordHasNoEffect :
    (draining 2).phase = .drain ∧ (draining 2).k ≠ 1#32 ∧ (draining 1).phase = .drain ∧ (draining 1).k = 1#32 ∧
    PromptFor 1 (draining 1) := by decide
theorem witness_SingleCommandOutcomes :
    ∃ t, singleByte .home = some (0x02#8, false) ∧ Idle ready ∧ ready.initf = true ∧ NoReset ready ∧
      exec .home ready = .next t ∧ t.phase = .idle :=
  ⟨_, by decide, by decide, by decide, by decide, rfl, by decide⟩
theorem witness_RepeatedCommandOutcomes :
    ∃ t, moveByte (.cul 2) = some (0x10#8, 2) ∧ (Instr.cul 2).wellFormed = true ∧ Idle ready ∧ ready.initf = true ∧
      NoReset ready ∧ exec (.cul 2) ready = .next t ∧ t.phase = .idle :=
  ⟨_, by decide, by decide, by decide, by decide, by decide, rfl, by decide⟩
theorem witness_InitOutcomes :
    ∃ t, Idle fresh ∧ NoReset fresh ∧ exec .init fresh = .next t ∧ t.phase = .idle :=
  ⟨_, by decide, by decide, rfl, by decide⟩
theorem witness_CharacterOutcomes :
    ∃ t, (0 : Int) ≤ 0x41 ∧ (0x41 : Int) ≤ 255 ∧ InText (awaiting 1) ∧ NoReset (awaiting 1) ∧
      exec (.chr 0x41) (awaiting 1) = .next t ∧ takesWord t.phase = true :=
  ⟨_, by decide, by decide, by decide, by decide, rfl, by decide⟩
theorem witness_TransmissionTakesItsLeastTime :
    ∃ t, singleByte .clr = some (0x01#8, false) ∧ Idle ready ∧ ready.initf = true ∧ NoReset ready ∧
      exec .clr ready = .next t ∧ t.phase = .idle ∧ t.stat = .ok :=
  ⟨_, by decide, by decide, by decide, by decide, rfl, by decide, by decide⟩
theorem witness_WholeStringIsDelivered :
    let cps : List Int := [0, 255]
    let s := { ready with inputs := offerPrompt (encode (.wrs cps.length)) ::
      (cps.flatMap fun c => offerPrompt (encode (.chr c)) ::
        List.replicate (transmissionCycles slow) (offerPrompt 0#48)) ++ [offerPrompt 0#48] }
    cps ≠ [] ∧ cps.length ≤ 2147483647 ∧ (∀ c ∈ cps, 0 ≤ c ∧ c ≤ 255) ∧ Idle s ∧ s.initf = true ∧
    usableConfig s.cfg = true ∧ transmissionCycles s.cfg = transmissionCycles slow := by decide
theorem witness_EncoderComposesOnlyItsBytes :
    ∃ t, Instr.clr.isHeader = true ∧ (∀ v d, Instr.clr ≠ .tx v d) ∧ Idle ready ∧ NoReset ready ∧
      exec .clr ready = .next t ∧ ({ rs := false, rw := false, d := 0x01#8 } : Frame) ∈ t.delivered.drop ready.delivered.length :=
  ⟨_, by decide, by simp, by decide, by decide, rfl, by decide⟩
theorem witness_SingleCommandFrame :
    (∃ t, Instr.clr.wellFormed = true ∧ Idle ready ∧ NoReset ready ∧ exec .clr ready = .next t ∧ t.phase = .idle) ∧
    (∃ t, Idle fresh ∧ NoReset fresh ∧ exec .home fresh = .next t ∧ fresh.initf = false) ∧
    (∃ t, (Instr.pos 256 true).wellFormed = true ∧ exec (.pos 256 true) ready = .next t ∧ singleByte (.pos 256 true) = none) :=
  ⟨⟨_, by decide, by decide, by decide, rfl, by decide⟩, ⟨_, by decide, by decide, rfl, by decide⟩,
    ⟨_, by decide, rfl, by decide⟩⟩
theorem witness_CountedCommandFrame :
    (∃ t, (Instr.cur 1).wellFormed = true ∧ Idle fresh ∧ NoReset fresh ∧ exec (.cur 1) fresh = .next t ∧
      fresh.initf = false ∧ takesWord t.phase = true) ∧
    (∃ t, (Instr.wrs 0).wellFormed = true ∧ exec (.wrs 0) fresh = .next t ∧ takesWord t.phase = true) ∧
    (∃ t, InText (awaiting 1) ∧ NoReset (awaiting 1) ∧ exec (.chr 0x41) (awaiting 1) = .next t) ∧
    (∃ t, (draining 1).phase = .drain ∧ (draining 1).ses = false ∧ (draining 1).pin = 0x000#11 ∧
      inBurst (draining 1) = true ∧ exec (.chr 0x41) (draining 1) = .next t) :=
  ⟨⟨_, by decide, by decide, by decide, rfl, by decide, by decide⟩, ⟨_, by decide, rfl, by decide⟩,
    ⟨_, by decide, by decide, rfl⟩, ⟨_, by decide, by decide, by decide, by decide, rfl⟩⟩
theorem witness_InitFrame :
    ∃ t, Idle fresh ∧ NoReset fresh ∧ exec .init fresh = .next t ∧ t.initf ≠ fresh.initf ∧ t.phase = .idle :=
  ⟨_, by decide, by decide, rfl, by decide, by decide⟩

end Sys2Proof.Tests
end

/-! ## O29: the numbers of R4 -/

namespace Sys2Proof.Machine

/-- `cyclesFor ns c` is the least positive number of cycles that lasts `ns` nanoseconds (R4). -/
theorem cyclesFor_spec (ns : Nat) (c : Config) :
    ns * c.clkHz ≤ cyclesFor ns c * 1000000000 ∧
      ∀ n, 1 ≤ n → ns * c.clkHz ≤ n * 1000000000 → cyclesFor ns c ≤ n := by
  obtain ⟨hlasts, hleast⟩ := ceilDiv_spec (ns * c.clkHz) (b := 1000000000) (by decide)
  refine ⟨hlasts.trans (Nat.mul_le_mul_right _ (Nat.le_max_right ..)), fun n h1 hn => ?_⟩
  exact Nat.max_le.2 ⟨h1, hleast n hn⟩

/-- Settles O29: each count is what `cyclesFor_spec` says of its minimum time. -/
theorem cycleCountsAreTheCeilings : Obligations.CycleCountsAreTheCeilings := fun c _ =>
  ⟨cyclesFor_spec Config.tSetupMinNs c, cyclesFor_spec Config.tPulseMinNs c,
    one_le_nPulse c, nPulse_le_nSetup c, nSetup_lt c⟩

end Sys2Proof.Machine

/-! ## Acceptance of a word: what an operation does before its first pin write

The entry of an operation, and what follows a transmission, write no pin and no `SES`, record at most
a response, and leave the machine in a phase outside the session. -/

namespace Sys2Proof.Machine

/-- `exec` is the accepting edge and the run of edges after it. -/
theorem exec_eq_settle_start (i : Instr) (s : State) : exec i s = .next (settle (start i s)) := by
  cases i <;> rfl

/-- `t` follows `s` without a pin write: the session stays as it is and is not held in `t`'s phase,
and the trace gains at most responses. -/
structure Quiet (s t : State) : Prop where
  pin : t.pin = s.pin
  ses : t.ses = s.ses
  delivered : t.delivered = s.delivered
  inputs : t.inputs = s.inputs
  phase : holdsSession t.phase = false
  trace : ∃ es, t.trace = s.trace ++ es ∧ ∀ e ∈ es, ∃ c, e = .rsp c

/-- `REQR` plays no part. -/
theorem Quiet.of_latch {s t : State} {w : ReqWord} (h : Quiet (s.latch w) t) : Quiet s t :=
  ⟨h.pin, h.ses, h.delivered, h.inputs, h.phase, h.trace⟩

/-- Nor does `K`. -/
theorem Quiet.of_setK {s t : State} {n : Arg} (h : Quiet (s.setK n) t) : Quiet s t :=
  ⟨h.pin, h.ses, h.delivered, h.inputs, h.phase, h.trace⟩

theorem quiet_respond (c : Status) (s : State) : Quiet s (respond c s) :=
  ⟨rfl, rfl, rfl, rfl, rfl, [.rsp c], rfl, by simp⟩

theorem quiet_goto {p : Phase} (s : State) (hp : holdsSession p = false) : Quiet s (s.goto p) :=
  ⟨rfl, rfl, rfl, rfl, hp, [], by simp⟩

theorem quiet_drainThen (c : Status) (n : Arg) (s : State) : Quiet s (drainThen c n s) := by
  rcases drainThen_cases c n s with ⟨-, h⟩ | ⟨-, h⟩ <;> rw [h]
  · exact ⟨rfl, rfl, rfl, rfl, rfl, [], by simp⟩
  · exact quiet_respond c s

theorem quiet_raise (c : Status) (s : State) : Quiet s (raise c s) := by
  unfold raise; split
  · exact quiet_drainThen ..
  · exact quiet_respond ..

theorem quiet_transmit (v : Int) (d : Bool) (s : State) : Quiet s (transmit v d s) := by
  rcases transmit_cases v d s with ⟨-, h⟩ | ⟨-, h⟩ <;> rw [h]
  · exact ⟨rfl, rfl, rfl, rfl, rfl, [], by simp⟩
  · exact quiet_raise ..

theorem quiet_moveLoop (v : Int) (s : State) : Quiet s (moveLoop v s) := by
  unfold moveLoop; split
  · exact quiet_respond ..
  · exact quiet_transmit ..

theorem quiet_textLoop (s : State) : Quiet s (textLoop s) := by
  unfold textLoop; split
  · exact quiet_respond ..
  · exact quiet_goto s rfl

theorem quiet_afterInit (s : State) : Quiet s (afterInit s) := by
  unfold afterInit; split
  · exact (quiet_transmit ..).of_setK
  · split
    · exact (quiet_transmit ..).of_setK
    · exact ⟨rfl, rfl, rfl, rfl, rfl, [.rsp .ok], rfl, by simp⟩

theorem quiet_afterTransmission (s : State) : Quiet s (afterTransmission s) := by
  unfold afterTransmission; split
  · exact quiet_afterInit s
  · exact (quiet_moveLoop ..).of_setK
  · exact (quiet_moveLoop ..).of_setK
  · exact quiet_textLoop s
  · exact quiet_respond ..

theorem quiet_drainWord {s : State} (hp : holdsSession s.phase = false) : Quiet s (drainWord s) := by
  unfold drainWord; split
  · exact (quiet_respond ..).of_setK
  · exact ⟨rfl, rfl, rfl, rfl, hp, [], by simp⟩

theorem quiet_guardOr (refused body : State → State) {s : State} (hr : Quiet s (refused s))
    (hb : Quiet s (body s)) : Quiet s (guardOr refused body s) := by
  unfold guardOr; split
  · exact hb
  · exact hr

theorem quiet_single (v : Int) (d : Bool) (s : State) : Quiet s (single v d s) :=
  quiet_guardOr _ _ (quiet_raise ..) (quiet_transmit ..)

theorem quiet_repeated (v n : Int) (s : State) : Quiet s (repeated v n s) :=
  quiet_guardOr _ (fun s => moveLoop v (s.setK (moveCount n))) (quiet_raise ..) (quiet_moveLoop ..).of_setK

/-- The accepting edge of every request. -/
theorem quiet_start (i : Instr) (s : State) : Quiet s (start i s) := by
  cases i with
  | init => exact (quiet_goto _ rfl).of_setK.of_latch
  | clr | home | fmt | disp | pos | tx => exact (quiet_single ..).of_latch
  | cur | cul => exact (quiet_repeated ..).of_latch
  | wrs len => exact (quiet_guardOr _ (fun s => textLoop (s.setK (textCount len))) (quiet_drainThen ..)
      (quiet_textLoop _).of_setK).of_latch
  | chr cp =>
    show Quiet s (if s.phase = .drain then drainWord s else textWord cp s)
    split
    · exact quiet_drainWord (by simp [*, holdsSession])
    · exact (quiet_transmit ..).of_setK

end Sys2Proof.Machine

/-! ## O9: a step is a number of clock edges

`step` and `clockEdges` differ in how they hold the samples: `settleFrom` keeps the coming ones beside
the state, `clockEdges` in it. So the one thing to show is that an edge does not look at them. -/

namespace Sys2Proof.Machine

/-- The state with other samples to come. -/
def State.withInputs (l : List PortIn) (s : State) : State := { s with inputs := l }

section
variable (l : List PortIn) (s : State)

theorem pinWrite_withInputs (ws : List (Role × Bool)) :
    pinWrite ws (s.withInputs l) = (pinWrite ws s).withInputs l := by
  unfold pinWrite
  rw [apply_ite (State.withInputs l)]
  rfl

theorem enableOutputs_withInputs : enableOutputs (s.withInputs l) = (enableOutputs s).withInputs l := by
  unfold enableOutputs
  rw [apply_ite (State.withInputs l)]
  rfl

theorem endWait_countCycle_withInputs :
    endWait (countCycle (s.withInputs l)) = (endWait (countCycle s)).withInputs l := rfl

theorem drainThen_withInputs (c : Status) (n : Arg) :
    drainThen c n (s.withInputs l) = (drainThen c n s).withInputs l := by
  unfold drainThen
  rw [apply_ite (State.withInputs l)]
  rfl

theorem raise_withInputs (c : Status) : raise c (s.withInputs l) = (raise c s).withInputs l := by
  unfold raise
  rw [apply_ite (State.withInputs l), ← drainThen_withInputs]
  rfl

theorem transmit_withInputs (v : Int) (d : Bool) :
    transmit v d (s.withInputs l) = (transmit v d s).withInputs l := by
  unfold transmit
  rw [apply_ite (State.withInputs l), ← raise_withInputs]
  rfl

theorem moveLoop_withInputs (v : Int) : moveLoop v (s.withInputs l) = (moveLoop v s).withInputs l := by
  unfold moveLoop
  rw [apply_ite (State.withInputs l), ← transmit_withInputs]
  rfl

theorem textLoop_withInputs : textLoop (s.withInputs l) = (textLoop s).withInputs l := by
  unfold textLoop
  rw [apply_ite (State.withInputs l)]
  rfl

theorem afterInit_withInputs : afterInit (s.withInputs l) = (afterInit s).withInputs l := by
  unfold afterInit
  rw [apply_ite (State.withInputs l), apply_ite (State.withInputs l), ← transmit_withInputs,
    ← transmit_withInputs]
  rfl

theorem afterTransmission_withInputs :
    afterTransmission (s.withInputs l) = (afterTransmission s).withInputs l := by
  unfold afterTransmission
  rw [show (s.withInputs l).reqr = s.reqr from rfl]
  split
  · exact afterInit_withInputs l s
  · exact moveLoop_withInputs l (s.setK (s.k - 1#32)) curValue
  · exact moveLoop_withInputs l (s.setK (s.k - 1#32)) culValue
  · exact textLoop_withInputs l s
  · rfl

theorem edgeAcq_withInputs (x : PortIn) : edgeAcq x (s.withInputs l) = (edgeAcq x s).withInputs l := by
  unfold edgeAcq
  rw [show (s.withInputs l).phase = s.phase from rfl]
  split
  · rfl
  · exact raise_withInputs l (s.emit (.acq .fail)) .deviceUnavailable
  · rfl

theorem edgeRel_withInputs (x : PortIn) : edgeRel x (s.withInputs l) = (edgeRel x s).withInputs l := by
  unfold edgeRel
  rw [show (s.withInputs l).phase = s.phase from rfl]
  split
  · rfl
  · exact raise_withInputs l { s with ses := false, trace := s.trace ++ [.rel .fail] } .deviceUnavailable
  · exact afterTransmission_withInputs l { s with ses := false, trace := s.trace ++ [.rel .ok] }

end

/-- An edge of the sequencer does not look at the samples to come. -/
theorem advance_withInputs (x : PortIn) (s : State) (l : List PortIn) :
    advance x (s.withInputs l) = (advance x s).withInputs l := by
  unfold advance
  rw [show (s.withInputs l).phase = s.phase from rfl]
  split
  case h_1 | h_2 | h_3 => rfl
  case h_4 => exact edgeAcq_withInputs l s x
  case h_13 => exact edgeRel_withInputs l s x
  -- the self-timed phases and `P_RSP`: stay, or make one update
  all_goals
    simp only [edgeCfgoe, edgeCfglow, edgeSelect, edgeDrive, edgeSetup, edgeHigh, edgeFall, edgeReset, edgeRsp,
      enableOutputs_withInputs, endWait_countCycle_withInputs, pinWrite_withInputs, apply_ite (State.withInputs l)]
    rfl

/-- The same with the reset input. -/
theorem busyEdge_withInputs (x : PortIn) (s : State) (l : List PortIn) :
    busyEdge x (s.withInputs l) = (busyEdge x s).withInputs l := by
  unfold busyEdge
  rw [advance_withInputs, apply_ite (State.withInputs l)]
  rfl

@[simp] theorem busyEdge_inputs (x : PortIn) (s : State) : (busyEdge x s).inputs = s.inputs := by
  unfold busyEdge; split
  · rfl
  · obtain ⟨-, -, hinputs, -⟩ := advance_same x s
    exact hinputs

/-! ### One edge of the block, by what it finds -/

/-- A phase that takes a word waits for one. -/
theorem advance_of_takesWord (x : PortIn) {s : State} (hw : takesWord s.phase = true) : advance x s = s := by
  unfold advance
  split <;> simp_all [takesWord]

/-- Where no request word is taken, an edge of the block is the sequencer's. -/
theorem clockEdge_eq_busyEdge {x : PortIn} {s : State}
    (h : ¬(x.rst = false ∧ takesWord s.phase = true ∧ x.reqValid = true)) : clockEdge x s = busyEdge x s := by
  unfold clockEdge busyEdge
  split
  · rfl
  · next hr =>
    split
    · next hw =>
      rw [if_neg (by simp_all), advance_of_takesWord x hw]
    · rfl

section
variable {x : PortIn} {s : State} (hr : x.rst = false) (hw : takesWord s.phase = true) (hv : x.reqValid = true)
include hr hw hv

/-- A word that spells a request starts it. -/
theorem clockEdge_eq_start {i : Instr} (hd : readWord s.phase x.reqData = .ok i) : clockEdge x s = start i s := by
  simp [clockEdge, hr, hw, hv, hd]

/-- An illegal header is answered at once. -/
theorem clockEdge_eq_badRequest {e : Illegal} (hd : readWord s.phase x.reqData = .error e) :
    clockEdge x s = badRequest s := by
  simp [clockEdge, hr, hw, hv, hd]

end

@[simp] theorem clockEdge_inputs (x : PortIn) (s : State) : (clockEdge x s).inputs = s.inputs := by
  by_cases h : x.rst = false ∧ takesWord s.phase = true ∧ x.reqValid = true
  · obtain ⟨hr, hw, hv⟩ := h
    cases hd : readWord s.phase x.reqData with
    | ok i => rw [clockEdge_eq_start hr hw hv hd, (quiet_start i s).inputs]
    | error e => rw [clockEdge_eq_badRequest hr hw hv hd, badRequest, respond_inputs]
  · rw [clockEdge_eq_busyEdge h, busyEdge_inputs]

/-! ### Runs of edges -/

theorem clockEdges_cons (n : Nat) (x : PortIn) (xs : List PortIn) (s : State) :
    clockEdges (n + 1) (s.withInputs (x :: xs)) = clockEdges n (clockEdge x (s.withInputs xs)) := rfl

/-- The run to the next word is a number of clock edges, one sample each. -/
theorem settleFrom_eq_clockEdges : ∀ (xs : List PortIn) (s : State),
    ∃ n ≤ xs.length, settleFrom xs s = clockEdges n (s.withInputs xs) ∧ (settleFrom xs s).inputs = xs.drop n
  | [], s => ⟨0, Nat.le_refl 0, rfl, rfl⟩
  | x :: xs, s => by
    by_cases hw : takesWord s.phase = true
    · rw [settleFrom_ready _ hw]
      exact ⟨0, Nat.zero_le _, rfl, rfl⟩
    · obtain ⟨n, hn, hrun, hinputs⟩ := settleFrom_eq_clockEdges xs (busyEdge x s)
      rw [settleFrom_busy _ _ (by simpa using hw)]
      refine ⟨n + 1, Nat.succ_le_succ hn, ?_, hinputs⟩
      rw [hrun, clockEdges_cons, ← busyEdge_withInputs,
        clockEdge_eq_busyEdge (s := s.withInputs xs) fun ⟨_, hw', _⟩ => hw hw']

/-- The same over the state's own samples. -/
theorem settle_eq_clockEdges (s : State) :
    ∃ n ≤ s.inputs.length, settle s = clockEdges n s ∧ (settle s).inputs = s.inputs.drop n :=
  settleFrom_eq_clockEdges s.inputs s

/-! ### The step -/

/-- A step that answers a next state has a usable configuration. -/
theorem usableConfig_of_step {s t : State} (h : step s = .next t) : usableConfig s.cfg = true := by
  by_contra hc
  simp [step, hc] at h

/-- Without a sample a step does nothing. -/
theorem step_nil {s : State} (hc : usableConfig s.cfg = true) (hi : s.inputs = []) : step s = .next s := by
  simp [step, hc, hi]

/-- With one, it is one edge of the block and then the run to the next word. -/
theorem step_cons {s : State} {x : PortIn} {xs : List PortIn} (hc : usableConfig s.cfg = true)
    (hi : s.inputs = x :: xs) : step s = .next (settle (clockEdge x (s.withInputs xs))) := by
  unfold step
  simp only [hc, hi, if_true]
  by_cases h : x.rst = false ∧ takesWord s.phase = true ∧ x.reqValid = true
  · obtain ⟨hr, hw, hv⟩ := h
    rw [if_pos (by simp [hr, hw, hv])]
    cases hd : readWord s.phase x.reqData with
    | ok i => rw [clockEdge_eq_start (s := s.withInputs xs) hr hw hv hd]; exact exec_eq_settle_start ..
    | error e => rw [clockEdge_eq_badRequest (s := s.withInputs xs) hr hw hv hd]; rfl
  · rw [if_neg (by simpa [and_assoc] using h), clockEdge_eq_busyEdge (s := s.withInputs xs) h]
    rfl

/-- Settles O9: with a sample there, the step's first edge and the edges of the run after it. -/
theorem stepIsAWholeNumberOfClockEdges : Obligations.StepIsAWholeNumberOfClockEdges := by
  intro s t hstep
  have hc := usableConfig_of_step hstep
  cases hi : s.inputs with
  | nil =>
    rw [step_nil hc hi] at hstep
    cases hstep
    exact ⟨0, Nat.zero_le _, rfl, hi, by simp⟩
  | cons x xs =>
    rw [step_cons hc hi] at hstep
    cases hstep
    obtain ⟨n, hn, hrun, hinputs⟩ := settle_eq_clockEdges (clockEdge x (s.withInputs xs))
    rw [clockEdge_inputs] at hn hinputs
    have hs : s = s.withInputs (x :: xs) := congrArg s.withInputs hi
    refine ⟨n + 1, Nat.succ_le_succ hn, ?_, hinputs, fun _ => Nat.le_add_left 1 n⟩
    rw [hrun, ← clockEdges_cons, ← hs]

end Sys2Proof.Machine

/-! ## O22: the delivered list is the trace, replayed over the lines

Two facts carry it along the edges of an operation: `PhaseTells`, that the phase says whether the
session is held and whether E is high, and `Shows`, that what has been added so far agrees. -/

namespace Sys2Proof.Machine

/-! ### The level of one role after writes -/

theorem roleIdx_injective : Function.Injective roleIdx :=
  Function.LeftInverse.injective (g := (allRoles.getD · .d0)) fun r => by cases r <;> rfl

theorem roleIdx_lt (r : Role) : roleIdx r < 11 := by cases r <;> decide

/-- Writing a role's bit sets that role's level and no other. -/
theorem level_setLevel (v : Pins) (r q : Role) (b : Bool) :
    level (setLevel v r b) q = if q = r then b else level v q := by
  have hbit : (1#11 <<< roleIdx r).getLsbD (roleIdx q) = decide (q = r) := by
    rw [← BitVec.twoPow_eq, BitVec.getLsbD_twoPow]
    simp [roleIdx_lt, roleIdx_injective.eq_iff, eq_comm]
  unfold level setLevel
  cases b
  · simp only [Bool.false_eq_true, if_false, BitVec.getLsbD_and, BitVec.getLsbD_not, hbit, roleIdx_lt]
    by_cases hq : q = r <;> simp [hq]
  · simp only [if_true, BitVec.getLsbD_or, hbit]
    by_cases hq : q = r <;> simp [hq]

@[simp] theorem level_select (v : Pins) (dm : Bool) : level (writeLevels v (selectWrites dm)) .e = level v .e := by
  simp [writeLevels, selectWrites, level_setLevel]

@[simp] theorem level_drive (v : Pins) (b : Byte) : level (writeLevels v (driveWrites b)) .e = level v .e := by
  simp [writeLevels, driveWrites, level_setLevel]

@[simp] theorem level_write_e (v : Pins) (b : Bool) : level (writeLevels v [(.e, b)]) .e = b := by
  simp [writeLevels, level_setLevel]

@[simp] theorem level_zero (r : Role) : level 0x000#11 r = false := by simp [level]

/-! ### Replaying a trace -/

/-- The vector of lines after an event. -/
def pinsAfterEvent (v : Pins) : Event → Pins
  | .pin w => w
  | .acq _ | .rel _ | .oe _ | .wait _ | .rsp _ => v

/-- The vector of lines after a trace. -/
def pinsAfter (v : Pins) (es : List Event) : Pins := es.foldl pinsAfterEvent v

/-- A trace shows its first part, and then its second over the lines the first has left. -/
theorem shown_append (es fs : List Event) (v : Pins) :
    shown v (es ++ fs) = shown v es ++ shown (pinsAfter v es) fs := by
  induction es generalizing v with
  | nil => rfl
  | cons e es ih =>
    cases e with
    | pin w =>
      rw [List.cons_append, shown, shown]
      split
      · exact congrArg (presented v :: ·) (ih w)
      · exact ih w
    | acq | rel | oe | wait | rsp => exact ih v

/-- Responses show nothing and move no line. -/
theorem shown_responses {es : List Event} (h : ∀ e ∈ es, ∃ c, e = .rsp c) (v : Pins) :
    shown v es = [] ∧ pinsAfter v es = v := by
  induction es with
  | nil => exact ⟨rfl, rfl⟩
  | cons e es ih =>
    obtain ⟨c, rfl⟩ := h e List.mem_cons_self
    exact ih fun e he => h e (List.mem_cons_of_mem _ he)

/-- What has been added to the trace from `s` to `u`, replayed over the lines of `s`, gives what has been
added to the delivered list, and the lines of `u`. -/
def Shows (s u : State) : Prop :=
  ∃ es, u.trace = s.trace ++ es ∧ u.delivered = s.delivered ++ shown s.pin es ∧ u.pin = pinsAfter s.pin es

theorem Shows.refl (s : State) : Shows s s := ⟨[], by simp [shown, pinsAfter]⟩

theorem Shows.trans {s u t : State} (h : Shows s u) (g : Shows u t) : Shows s t := by
  obtain ⟨es, htr, hdl, hpin⟩ := h
  obtain ⟨fs, htr', hdl', hpin'⟩ := g
  refine ⟨es ++ fs, by rw [htr', htr, List.append_assoc], ?_, ?_⟩
  · rw [hdl', hdl, hpin, shown_append, List.append_assoc]
  · rw [hpin', hpin, pinsAfter, pinsAfter, pinsAfter, List.foldl_append]

/-- What writes no pin shows nothing. -/
theorem Quiet.shows {s t : State} (h : Quiet s t) : Shows s t := by
  obtain ⟨es, htr, hes⟩ := h.trace
  obtain ⟨hshown, hpins⟩ := shown_responses hes s.pin
  exact ⟨es, htr, by rw [hshown, h.delivered, List.append_nil], by rw [hpins, h.pin]⟩

/-- An event that is no `pin` event shows nothing. -/
theorem shows_emit (s : State) {e : Event} (h : ∀ w, e ≠ .pin w) : Shows s (s.emit e) := by
  cases e with
  | pin w => exact absurd rfl (h w)
  | acq | rel | oe | wait | rsp => exact ⟨_, rfl, (List.append_nil _).symm, rfl⟩

theorem shows_enableOutputs (s : State) : Shows s (enableOutputs s) := by
  unfold enableOutputs; split
  · exact shows_emit s (e := .oe 0x7FF#11) (by simp)
  · exact Shows.refl s

/-- While E is low a `PinWrite` shows nothing. -/
theorem shows_pinWrite {s : State} (ws : List (Role × Bool)) (h : level s.pin .e = false) :
    Shows s (pinWrite ws s) := by
  unfold pinWrite; split
  · exact ⟨[.pin (writeLevels s.pin ws)], rfl, by simp [shown, h], rfl⟩
  · exact Shows.refl s

/-- The end of a wait shows nothing. -/
theorem shows_endWait (s : State) : Shows s (endWait (countCycle s)) :=
  shows_emit s (e := .wait (s.waited + 1)) (by simp)

/-! ### What the phase tells -/

/-- The phase says whether the session is held (R15) and whether E is high (R73). -/
structure PhaseTells (u : State) : Prop where
  session : u.ses = holdsSession u.phase
  pulse : level u.pin .e = decide (u.phase = .high)

theorem PhaseTells.session_at {u : State} {p : Phase} (h : PhaseTells u) (hp : u.phase = p) :
    u.ses = holdsSession p := hp ▸ h.session

theorem PhaseTells.pulse_at {u : State} {p : Phase} (h : PhaseTells u) (hp : u.phase = p) :
    level u.pin .e = decide (p = .high) := hp ▸ h.pulse

/-- The invariant says as much. -/
theorem Coherent.phaseTells {s : State} (h : Coherent s) : PhaseTells s := by
  refine ⟨h.session, ?_⟩
  rw [h.pins]
  unfold phasePins
  split <;> simp [*, level_e_low, level_e_high]

/-- The end of a transmission, or the refusal of one, leads to a phase without session and pulse. -/
theorem Quiet.phaseTells {s t : State} (h : Quiet s t) (hs : s.ses = false) (he : level s.pin .e = false) :
    PhaseTells t := by
  refine ⟨by rw [h.ses, hs, h.phase], ?_⟩
  have hph : t.phase ≠ .high := fun hp => by simpa [hp, holdsSession] using h.phase
  simp [h.pin, he, hph]

/-! ### The edges -/

/-- What the change from `u` to `t` adds, it shows; and `t`'s phase tells. -/
structure Sound (u t : State) : Prop where
  shows : Shows u t
  tells : PhaseTells t

theorem Sound.stay {u : State} (h : PhaseTells u) : Sound u u := ⟨Shows.refl u, h⟩

section
variable {u : State}

/-- In a session, a `PinWrite` while E is low, which leaves E as the next phase says. -/
theorem sound_pinWrite {ws : List (Role × Bool)} {p : Phase} (hs : u.ses = true) (he : level u.pin .e = false)
    (hp : holdsSession p = true) (hl : level (writeLevels u.pin ws) .e = decide (p = .high)) :
    Sound u ((pinWrite ws u).goto p) :=
  ⟨shows_pinWrite ws he, by simp [hs, hp], by simpa [pinWrite_open ws hs] using hl⟩

/-- The registers that the timer uses play no part. -/
theorem Sound.startTimer {t : State} {n : Nat} {p : Phase} (h : Sound u (t.goto p)) :
    Sound u ((startTimer n t).goto p) :=
  ⟨h.shows, h.tells.session, h.tells.pulse⟩

end

section
variable (x : PortIn) {u : State} (h : PhaseTells u)
include h

theorem sound_edgeAcq (hp : u.phase = .acq) : Sound u (edgeAcq x u) := by
  have hs : u.ses = false := h.session_at hp
  have he : level u.pin .e = false := h.pulse_at hp
  unfold edgeAcq
  split
  · exact .stay h
  · have hq := quiet_raise .deviceUnavailable (u.emit (.acq .fail))
    exact ⟨(shows_emit u (by simp)).trans hq.shows, hq.phaseTells hs he⟩
  · refine ⟨shows_emit u (e := .acq .ok) (by simp), ?_, ?_⟩
    · cases configuring u <;> rfl
    · cases configuring u <;> exact he

theorem sound_edgeCfgoe (hp : u.phase = .cfgoe) : Sound u (edgeCfgoe x u) := by
  unfold edgeCfgoe
  split
  · exact .stay h
  · exact ⟨shows_enableOutputs u, by simp [h.session_at hp, holdsSession], by simp [h.pulse_at hp]⟩

theorem sound_edgeCfglow (hp : u.phase = .cfglow) : Sound u (edgeCfglow x u) := by
  unfold edgeCfglow
  split
  · exact .stay h
  · exact sound_pinWrite (h.session_at hp) (h.pulse_at hp) rfl (by simp)

theorem sound_edgeSelect (hp : u.phase = .select) : Sound u (edgeSelect x u) := by
  unfold edgeSelect
  split
  · exact .stay h
  · exact sound_pinWrite (h.session_at hp) (h.pulse_at hp) rfl (by simp [h.pulse, hp])

theorem sound_edgeDrive (hp : u.phase = .drive) : Sound u (edgeDrive x u) := by
  unfold edgeDrive
  split
  · exact .stay h
  · exact (sound_pinWrite (h.session_at hp) (h.pulse_at hp) rfl (by simp [h.pulse, hp])).startTimer

/-- One more cycle of a wait. -/
theorem sound_countCycle : Sound u (countCycle u) := ⟨Shows.refl u, h.session, h.pulse⟩

/-- E rises. -/
theorem sound_edgeSetup (hp : u.phase = .setup) : Sound u (edgeSetup x u) := by
  unfold edgeSetup
  split
  · obtain ⟨hshows, htells⟩ := sound_pinWrite (u := endWait (countCycle u)) (ws := [(.e, true)]) (p := .high)
      (h.session_at hp) (h.pulse_at hp) rfl (by simp)
    exact Sound.startTimer ⟨(shows_endWait u).trans hshows, htells⟩
  · exact sound_countCycle h

/-- E falls: the one edge at which the delivered list grows, and the one `pin` event that shows an entry. -/
theorem sound_edgeHigh (hp : u.phase = .high) : Sound u (edgeHigh x u) := by
  have hs : (endWait (countCycle u)).ses = true := h.session_at hp
  have he : level u.pin .e = true := h.pulse_at hp
  unfold edgeHigh
  split
  · rw [pinWrite_open _ hs]
    refine ⟨⟨[.wait (u.waited + 1), .pin (writeLevels u.pin [(.e, false)])], ?_, ?_, rfl⟩, hs, ?_⟩
    · simp
    · simp [shown, he]
    · simp
  · exact sound_countCycle h

theorem sound_edgeFall (hp : u.phase = .fall) : Sound u (edgeFall x u) := by
  unfold edgeFall
  split
  · exact .stay h
  · exact sound_pinWrite (h.session_at hp) (h.pulse_at hp) rfl (by simp)

theorem sound_edgeReset (hp : u.phase = .reset) : Sound u (edgeReset x u) := by
  unfold edgeReset
  split
  · exact .stay h
  · exact ⟨Shows.refl u, (h.session_at hp :), (h.pulse_at hp :)⟩

theorem sound_edgeRel (hp : u.phase = .rel) : Sound u (edgeRel x u) := by
  have he : level u.pin .e = false := h.pulse_at hp
  unfold edgeRel
  split
  · exact .stay h
  · have hq := quiet_raise .deviceUnavailable { u with ses := false, trace := u.trace ++ [.rel .fail] }
    exact ⟨(shows_emit u (e := .rel .fail) (by simp)).trans hq.shows, hq.phaseTells rfl he⟩
  · have hq := quiet_afterTransmission { u with ses := false, trace := u.trace ++ [.rel .ok] }
    exact ⟨(shows_emit u (e := .rel .ok) (by simp)).trans hq.shows, hq.phaseTells rfl he⟩

theorem sound_edgeRsp (hp : u.phase = .rsp) : Sound u (edgeRsp x u) := by
  unfold edgeRsp
  split
  · exact ⟨Shows.refl u, (h.session_at hp :), (h.pulse_at hp :)⟩
  · exact .stay h

/-- Every edge without reset. -/
theorem sound_advance : Sound u (advance x u) := by
  unfold advance
  split
  case h_1 | h_2 | h_3 => exact .stay h
  case h_4 hp => exact sound_edgeAcq x h hp
  case h_5 hp => exact sound_edgeCfgoe x h hp
  case h_6 hp => exact sound_edgeCfglow x h hp
  case h_7 hp => exact sound_edgeSelect x h hp
  case h_8 hp => exact sound_edgeDrive x h hp
  case h_9 hp => exact sound_edgeSetup x h hp
  case h_10 hp => exact sound_edgeHigh x h hp
  case h_11 hp => exact sound_edgeFall x h hp
  case h_12 hp => exact sound_edgeReset x h hp
  case h_13 hp => exact sound_edgeRel x h hp
  case h_14 hp => exact sound_edgeRsp x h hp

/-- The run to the next word, without reset. -/
theorem sound_settle (hr : NoReset u) : Sound u (settle u) := by
  refine settle_induct (P := Sound u) (fun t l ht => ⟨ht.shows, ht.tells.session, ht.tells.pulse⟩) hr
    (fun x t _ ht => ?_) (.stay h)
  obtain ⟨hshows, htells⟩ := sound_advance x ht.tells
  exact ⟨ht.shows.trans hshows, htells⟩

end

/-- Settles O22: the accepting edge writes no pin, and the run after it shows what it adds. -/
theorem deliveredIsWhatTheTraceShows : Obligations.DeliveredIsWhatTheTraceShows := by
  intro i s t hcoh hword _ hr hexec
  rw [exec_eq_settle_start] at hexec
  cases hexec
  have htells := hcoh.phaseTells
  have hs : s.ses = false := by
    rw [htells.session]
    cases hp : s.phase <;> simp_all [takesWord, holdsSession]
  have he : level s.pin .e = false := by
    rw [htells.pulse]
    cases hp : s.phase <;> simp_all [takesWord]
  have hq := quiet_start i s
  have hrun := sound_settle (hq.phaseTells hs he) (by simpa [NoReset, hq.inputs] using hr)
  obtain ⟨es, htr, hdl, -⟩ := hq.shows.trans hrun.shows
  exact ⟨es, htr, hdl⟩

end Sys2Proof.Machine

/-! ## O17: what the edges of a word, and of the sequencer, leave alone

Every claim about an edge starts from `clockEdge_cases`: a word is accepted, or the sequencer advances. -/

namespace Sys2Proof.Machine

/-! ### Acceptance of a word -/

theorem drainThen_initf (c : Status) (n : Arg) (s : State) : (drainThen c n s).initf = s.initf := by
  rcases drainThen_cases c n s with ⟨-, h⟩ | ⟨-, h⟩ <;> simp [h]

theorem raise_initf (c : Status) (s : State) : (raise c s).initf = s.initf := by
  rcases raise_cases c s with ⟨-, -, h⟩ | ⟨-, h⟩ <;> simp [h]

theorem raise_k (c : Status) (s : State) : (raise c s).k = s.k := by
  rcases raise_cases c s with ⟨-, -, h⟩ | ⟨-, h⟩ <;> simp [h]

theorem transmit_initf (v : Int) (d : Bool) (s : State) : (transmit v d s).initf = s.initf := by
  rcases transmit_cases v d s with ⟨-, h⟩ | ⟨-, h⟩ <;> rw [h]
  exact raise_initf ..

theorem transmit_k (v : Int) (d : Bool) (s : State) : (transmit v d s).k = s.k := by
  rcases transmit_cases v d s with ⟨-, h⟩ | ⟨-, h⟩ <;> rw [h]
  exact raise_k ..

theorem moveLoop_initf (v : Int) (s : State) : (moveLoop v s).initf = s.initf := by
  unfold moveLoop; split
  · rfl
  · exact transmit_initf ..

theorem textLoop_initf (s : State) : (textLoop s).initf = s.initf := by
  unfold textLoop; split <;> rfl

theorem drainWord_initf (s : State) : (drainWord s).initf = s.initf := by
  unfold drainWord; split <;> rfl

/-- What both branches of the guard keep, the guard keeps. -/
theorem guardOr_induct {P : State → Prop} {refused body : State → State} {s : State} (hr : P (refused s))
    (hb : P (body s)) : P (guardOr refused body s) := by
  unfold guardOr; split
  · exact hb
  · exact hr

/-- The state an accepted word's operation begins in: a header stands in `REQR` (R16). -/
def State.accept (i : Instr) (s : State) : State := if i.isHeader then s.latch (encode i) else s

theorem single_same (v : Int) (d : Bool) (s : State) : SameFields s (single v d s) :=
  guardOr_induct (raise_same ..) (transmit_same ..)

theorem repeated_same (v n : Int) (s : State) : SameFields s (repeated v n s) :=
  guardOr_induct (body := fun s => moveLoop v (s.setK (moveCount n))) (raise_same ..)
    ((setK_same ..).trans (moveLoop_same ..))

theorem drainThen_same (c : Status) (n : Arg) (s : State) : SameFields s (drainThen c n s) := by
  rcases drainThen_cases c n s with ⟨-, h⟩ | ⟨-, h⟩ <;> rw [h] <;> constructor <;> rfl

/-- An accepted word writes no pin, `OE`, `SES` or `TMR`, and `REQR` only with a header. -/
theorem start_same (i : Instr) (s : State) : SameFields (s.accept i) (start i s) := by
  cases i with
  | init => constructor <;> rfl
  | clr | home | fmt | disp | pos | tx => exact single_same ..
  | cur | cul => exact repeated_same ..
  | wrs len =>
    exact guardOr_induct (body := fun s => textLoop (s.setK (textCount len))) (drainThen_same ..)
      ((setK_same ..).trans (textLoop_same _))
  | chr cp =>
    show SameFields s (if s.phase = .drain then drainWord s else textWord cp s)
    split
    · exact drainWord_same s
    · exact (setK_same ..).trans (transmit_same ..)

/-- Nor is the mode changed at acceptance. -/
theorem start_initf (i : Instr) (s : State) : (start i s).initf = s.initf := by
  cases i with
  | init => rfl
  | clr | home | fmt | disp | pos | tx =>
    exact guardOr_induct (P := (·.initf = s.initf)) (raise_initf ..) (transmit_initf ..)
  | cur n | cul n =>
    exact guardOr_induct (P := (·.initf = s.initf)) (body := fun u => moveLoop _ (u.setK (moveCount n)))
      (raise_initf ..) (moveLoop_initf ..)
  | wrs len =>
    exact guardOr_induct (P := (·.initf = s.initf)) (body := fun u => textLoop (u.setK (textCount len)))
      (drainThen_initf ..) (textLoop_initf _)
  | chr cp =>
    show (if s.phase = .drain then drainWord s else textWord cp s).initf = s.initf
    split
    · exact drainWord_initf s
    · exact transmit_initf ..

/-! ### The sequencer -/

theorem advance_reqr (x : PortIn) (s : State) : (advance x s).reqr = s.reqr := (advance_same x s).1

theorem advance_cfg (x : PortIn) (s : State) : (advance x s).cfg = s.cfg := (advance_same x s).2.1

/-- The phases of an open session up to the release. -/
def beforeRelease : Phase → Bool
  | .cfgoe | .cfglow | .select | .drive | .setup | .high | .fall | .reset => true
  | .idle | .payload | .drain | .acq | .rel | .rsp => false

/-- The sequencer's other edges: a word is waited for, the session answers, or the host takes the response. -/
theorem advance_cases (x : PortIn) (s : State) :
    beforeRelease s.phase = true ∨ (takesWord s.phase = true ∧ advance x s = s) ∨
    (s.phase = .acq ∧ advance x s = edgeAcq x s) ∨ (s.phase = .rel ∧ advance x s = edgeRel x s) ∨
    (s.phase = .rsp ∧ advance x s = edgeRsp x s) := by
  cases hp : s.phase <;> simp [beforeRelease, takesWord, advance, hp]

/-- A phase that takes a word is outside the session. -/
theorem holdsSession_of_takesWord {p : Phase} (h : takesWord p = true) : holdsSession p = false := by
  cases p <;> simp [takesWord, holdsSession] at h ⊢

/-- Up to the release an edge keeps the operation and its mode, and the session stays open. -/
theorem advance_beforeRelease (x : PortIn) {s : State} (hs : beforeRelease s.phase = true) :
    (advance x s).initf = s.initf ∧ (advance x s).k = s.k ∧ holdsSession (advance x s).phase = true ∧
      ((advance x s).phase = .cfgoe → s.phase = .cfgoe) ∧
      ((advance x s).phase = .cfglow → s.phase = .cfgoe ∨ s.phase = .cfglow) := by
  unfold advance
  split <;> rename_i hp <;> rw [hp] at hs <;> simp only [beforeRelease, Bool.false_eq_true] at hs
  all_goals
    simp only [edgeCfgoe, edgeCfglow, edgeSelect, edgeDrive, edgeSetup, edgeHigh, edgeFall, edgeReset]
    split <;> simp [hp, holdsSession]

/-- The one edge of the sequencer that writes `OE` (R107). -/
theorem advance_oe (x : PortIn) (s : State) :
    (advance x s).oe = s.oe ∨ (s.phase = .cfgoe ∧ s.ses = true ∧ (advance x s).oe = 0x7FF#11) := by
  unfold advance
  split
  case h_4 =>
    left; unfold edgeAcq; split
    · rfl
    · exact (raise_same _ (s.emit (.acq .fail))).oe
    · rfl
  case h_5 hp =>
    unfold edgeCfgoe enableOutputs; split
    · exact .inl rfl
    · split
      · exact .inr ⟨hp, ‹_›, rfl⟩
      · exact .inl rfl
  case h_13 =>
    left; unfold edgeRel; split
    · rfl
    · exact (raise_same _ _).oe
    · exact (afterTransmission_same _).oe
  all_goals
    left
    simp only [edgeCfglow, edgeSelect, edgeDrive, edgeSetup, edgeHigh, edgeFall, edgeReset, edgeRsp]
  all_goals split <;> simp

/-- Outside a session no line changes (R26). -/
theorem advance_pin_of_closed (x : PortIn) {s : State} (hs : s.ses = false) : (advance x s).pin = s.pin := by
  have hw : (endWait (countCycle s)).ses = false := hs
  unfold advance
  split
  case h_4 =>
    unfold edgeAcq; split
    · rfl
    · exact (raise_same _ (s.emit (.acq .fail))).pin
    · rfl
  case h_13 =>
    unfold edgeRel; split
    · rfl
    · exact (raise_same _ _).pin
    · exact (afterTransmission_same _).pin
  all_goals
    simp only [edgeCfgoe, edgeCfglow, edgeSelect, edgeDrive, edgeSetup, edgeHigh, edgeFall, edgeReset, edgeRsp,
      pinWrite_closed _ hs, pinWrite_closed _ hw]
  all_goals split <;> simp

/-- What follows a transmission leaves the mode alone, but for the end of an `INIT` (R105, R107). -/
theorem afterTransmission_initf (s : State) :
    (afterTransmission s).initf = s.initf ∨ (decodeHeader s.reqr = .ok .init ∧
      (afterTransmission s).initf = true ∧ (afterTransmission s).stat = .ok ∧ (afterTransmission s).phase = .rsp) := by
  unfold afterTransmission
  split
  · next hd =>
    unfold afterInit; split
    · exact .inl (transmit_initf ..)
    · split
      · exact .inl (transmit_initf ..)
      · exact .inr ⟨hd, rfl, rfl, rfl⟩
  · exact .inl (moveLoop_initf ..)
  · exact .inl (moveLoop_initf ..)
  · exact .inl (textLoop_initf s)
  · exact .inl rfl

/-- An edge leaves the mode alone, but for the one that ends an `INIT` (R105). -/
theorem advance_initf (x : PortIn) (s : State) :
    (advance x s).initf = s.initf ∨ (decodeHeader s.reqr = .ok .init ∧
      (advance x s).initf = true ∧ (advance x s).stat = .ok ∧ (advance x s).phase = .rsp) := by
  rcases advance_cases x s with hb | ⟨-, he⟩ | ⟨-, he⟩ | ⟨-, he⟩ | ⟨-, he⟩
  · exact .inl (advance_beforeRelease x hb).1
  all_goals rw [he]
  · exact .inl rfl
  · left; unfold edgeAcq; split
    · rfl
    · exact raise_initf ..
    · rfl
  · unfold edgeRel; split
    · exact .inl rfl
    · exact .inl (raise_initf ..)
    · exact afterTransmission_initf _
  · left; unfold edgeRsp; split <;> rfl

/-! ### One edge of the block -/

/-- Without reset an edge accepts a request, answers an illegal header, or is the sequencer's. -/
theorem clockEdge_cases {x : PortIn} (s : State) (hr : x.rst = false) :
    (takesWord s.phase = true ∧ ∃ i, readWord s.phase x.reqData = .ok i ∧ clockEdge x s = start i s) ∨
    (takesWord s.phase = true ∧ clockEdge x s = badRequest s) ∨
    clockEdge x s = advance x s := by
  by_cases h : x.rst = false ∧ takesWord s.phase = true ∧ x.reqValid = true
  · obtain ⟨-, hw, hv⟩ := h
    cases hd : readWord s.phase x.reqData with
    | ok i => exact .inl ⟨hw, i, rfl, clockEdge_eq_start hr hw hv hd⟩
    | error e => exact .inr (.inl ⟨hw, clockEdge_eq_badRequest hr hw hv hd⟩)
  · exact .inr (.inr (by simp [clockEdge_eq_busyEdge h, busyEdge, hr]))

@[simp] theorem accept_oe (i : Instr) (s : State) : (s.accept i).oe = s.oe := by
  unfold State.accept; split <;> rfl

@[simp] theorem accept_pin (i : Instr) (s : State) : (s.accept i).pin = s.pin := by
  unfold State.accept; split <;> rfl

@[simp] theorem accept_tmr (i : Instr) (s : State) : (s.accept i).tmr = s.tmr := by
  unfold State.accept; split <;> rfl

@[simp] theorem accept_cfg (i : Instr) (s : State) : (s.accept i).cfg = s.cfg := by
  unfold State.accept; split <;> rfl

@[simp] theorem accept_inputs (i : Instr) (s : State) : (s.accept i).inputs = s.inputs := by
  unfold State.accept; split <;> rfl

@[simp] theorem accept_reqr (i : Instr) (s : State) :
    (s.accept i).reqr = if i.isHeader then encode i else s.reqr := by
  unfold State.accept; split <;> rfl

@[simp] theorem accept_draws (i : Instr) (s : State) : (s.accept i).draws = s.draws := by
  unfold State.accept; split <;> rfl

/-- No edge changes the parameters. -/
theorem clockEdge_cfg (x : PortIn) (s : State) : (clockEdge x s).cfg = s.cfg := by
  by_cases hr : x.rst = true
  · simp [clockEdge, hr]
  rcases clockEdge_cases s (by simpa using hr) with ⟨-, i, -, h⟩ | ⟨-, h⟩ | h <;> rw [h]
  · rw [(start_same i s).cfg, accept_cfg]
  · rfl
  · exact advance_cfg x s

/-- Settles O17: acceptance writes no line, and the sequencer none outside a session. -/
theorem linesChangeOnlyInASession : Obligations.LinesChangeOnlyInASession := by
  intro x s hchange
  by_contra! hclosed
  obtain ⟨hs, hr⟩ := hclosed
  simp only [ne_eq, Bool.not_eq_true] at hs hr
  have hsame : (clockEdge x s).oe = s.oe ∧ (clockEdge x s).pin = s.pin := by
    rcases clockEdge_cases s hr with ⟨-, i, -, h⟩ | ⟨-, h⟩ | h <;> rw [h]
    · simp [(start_same i s).oe, (start_same i s).pin]
    · exact ⟨rfl, rfl⟩
    · refine ⟨(advance_oe x s).resolve_right fun ⟨_, ht, _⟩ => by simp [hs] at ht, advance_pin_of_closed x hs⟩
  obtain h | h := hchange
  · exact h hsame.1
  · exact h hsame.2

end Sys2Proof.Machine

/-! ## O28: the timer of the two waits (R19) -/

namespace Sys2Proof.Machine

/-- What an edge without reset does with the timer: a wait begins, ends or goes on, or there is none. -/
inductive TimerStep (s t : State) : Prop where
  | setup (hs : s.phase = .drive) (ht : t.phase = .setup) (htmr : t.tmr = nSetup s.cfg) (hw : t.waited = 0)
  | pulse (hs : s.phase = .setup) (hover : s.tmr ≤ 1) (ht : t.phase = .high) (htmr : t.tmr = nPulse s.cfg)
      (hw : t.waited = 0)
  | fall (hs : s.phase = .high) (hover : s.tmr ≤ 1) (ht : t.phase = .fall) (htmr : t.tmr = s.tmr - 1)
  | count (hs : s.phase = .setup ∨ s.phase = .high) (ht : t.phase = s.phase) (htmr : t.tmr = s.tmr - 1)
      (hw : t.waited = s.waited + 1)
  | hold (hs : s.phase ≠ .setup ∧ s.phase ≠ .high) (ht : t.phase ≠ .setup ∧ t.phase ≠ .high) (htmr : t.tmr = s.tmr)

/-- Where nothing is driven there is no wait. -/
theorem TimerStep.of_closed {s t : State} (hs : s.phase ≠ .setup ∧ s.phase ≠ .high)
    (ht : holdsSession t.phase = false) (htmr : t.tmr = s.tmr) : TimerStep s t :=
  .hold hs ⟨fun h => by simp [h, holdsSession] at ht, fun h => by simp [h, holdsSession] at ht⟩ htmr

theorem timerStep_edgeDrive (x : PortIn) {s : State} (hp : s.phase = .drive) : TimerStep s (edgeDrive x s) := by
  unfold edgeDrive; split
  · exact .hold (by simp [hp]) (by simp [hp]) rfl
  · exact .setup hp rfl rfl rfl

theorem timerStep_edgeSetup (x : PortIn) {s : State} (hp : s.phase = .setup) : TimerStep s (edgeSetup x s) := by
  unfold edgeSetup; split
  · next hover => exact .pulse hp ((waitOver_iff x s).1 hover).1 rfl rfl rfl
  · exact .count (.inl hp) rfl rfl rfl

theorem timerStep_edgeHigh (x : PortIn) {s : State} (hp : s.phase = .high) : TimerStep s (edgeHigh x s) := by
  unfold edgeHigh; split
  · next hover => exact .fall hp ((waitOver_iff x s).1 hover).1 rfl (by simp)
  · exact .count (.inr hp) rfl rfl rfl

theorem timerStep_edgeAcq (x : PortIn) {s : State} (hp : s.phase = .acq) : TimerStep s (edgeAcq x s) := by
  unfold edgeAcq; split
  · exact .hold (by simp [hp]) (by simp [hp]) rfl
  · exact .of_closed (by simp [hp]) (quiet_raise ..).phase (raise_same _ (s.emit (.acq .fail))).tmr
  · exact .hold (by simp [hp]) (by dsimp only; split <;> simp) rfl

theorem timerStep_edgeRel (x : PortIn) {s : State} (hp : s.phase = .rel) : TimerStep s (edgeRel x s) := by
  unfold edgeRel; split
  · exact .hold (by simp [hp]) (by simp [hp]) rfl
  · exact .of_closed (by simp [hp]) (quiet_raise ..).phase (raise_same _ _).tmr
  · exact .of_closed (by simp [hp]) (quiet_afterTransmission _).phase (afterTransmission_same _).tmr

theorem timerStep_advance (x : PortIn) (s : State) : TimerStep s (advance x s) := by
  unfold advance
  split <;> rename_i hp
  case h_1 | h_2 | h_3 => exact .hold (by simp [hp]) (by simp [hp]) rfl
  case h_4 => exact timerStep_edgeAcq x hp
  case h_8 => exact timerStep_edgeDrive x hp
  case h_9 => exact timerStep_edgeSetup x hp
  case h_10 => exact timerStep_edgeHigh x hp
  case h_13 => exact timerStep_edgeRel x hp
  all_goals
    simp only [edgeCfgoe, edgeCfglow, edgeSelect, edgeFall, edgeReset, edgeRsp]
    split <;> exact .hold (by simp [hp]) (by simp [hp]) (by simp)

theorem timerStep_clockEdge {x : PortIn} (s : State) (hr : x.rst = false) : TimerStep s (clockEdge x s) := by
  have notTimed (hw : takesWord s.phase = true) : s.phase ≠ .setup ∧ s.phase ≠ .high := by
    constructor <;> intro hp <;> simp [hp, takesWord] at hw
  rcases clockEdge_cases s hr with ⟨hw, i, -, h⟩ | ⟨hw, h⟩ | h <;> rw [h]
  · exact .of_closed (notTimed hw) (quiet_start i s).phase (by rw [(start_same i s).tmr, accept_tmr])
  · exact .of_closed (notTimed hw) rfl rfl
  · exact timerStep_advance x s

/-- Settles O28: the four clauses, read off what an edge does with the timer. -/
theorem timerCountsTheWaits : Obligations.TimerCountsTheWaits := by
  intro x s hr
  cases timerStep_clockEdge s hr with
  | setup hs ht htmr hw => simp [hs, ht, htmr]
  | pulse hs hover ht htmr hw => simp [hs, ht, htmr, hover]
  | fall hs hover ht htmr => simp [hs, ht, hover]
  | count hs ht htmr hw => rcases hs with hs | hs <;> simp [hs, ht, htmr]
  | hold hs ht htmr => simp [hs, ht, htmr]

/-- The clauses of the invariant on the timer: it fits its width, and ends no wait short (R19, R75). -/
structure Waits (s : State) : Prop where
  fits : s.tmr < 2 ^ tmrWidth s.cfg
  setup : s.phase = .setup → nSetup s.cfg ≤ s.waited + s.tmr
  pulse : s.phase = .high → nPulse s.cfg ≤ s.waited + s.tmr

theorem Coherent.waits {s : State} (h : Coherent s) : Waits s := ⟨h.timer, h.setupWait, h.pulseWait⟩

/-- A step of the timer keeps them. -/
theorem TimerStep.waits {s t : State} (h : TimerStep s t) (hc : t.cfg = s.cfg) (hw : Waits s) : Waits t := by
  obtain ⟨hfits, hsetup, hpulse⟩ := hw
  have hs := nSetup_lt s.cfg
  have hle := nPulse_le_nSetup s.cfg
  cases h with
  | setup _ ht htmr hw => constructor <;> simp [hc, ht, htmr, hw, hs]
  | pulse _ _ ht htmr hw =>
    constructor
    · rw [hc, htmr]; omega
    · simp [ht]
    · simp [hc, htmr, hw]
  | fall _ _ ht htmr =>
    constructor
    · rw [hc, htmr]; omega
    · simp [ht]
    · simp [ht]
  | count hs ht htmr hw =>
    constructor
    · rw [hc, htmr]; omega
    · rw [ht, hc, htmr, hw]; intro hp; have := hsetup hp; omega
    · rw [ht, hc, htmr, hw]; intro hp; have := hpulse hp; omega
  | hold _ ht htmr =>
    constructor
    · rwa [hc, htmr]
    · exact fun hp => absurd hp ht.1
    · exact fun hp => absurd hp ht.2

end Sys2Proof.Machine

/-! ## The lines of a phase (R15, R73, R79)

The first two clauses of the invariant are kept by every edge on their own, from any enables and any timer. -/

namespace Sys2Proof.Machine

/-- The phase says whether the session is held, and the level of every line. -/
structure Lines (u : State) : Prop where
  session : u.ses = holdsSession u.phase
  pins : u.pin = phasePins u

theorem Coherent.lines {s : State} (h : Coherent s) : Lines s := ⟨h.session, h.pins⟩

/-- Outside the session the lines are low. -/
theorem phasePins_of_closed {u : State} (h : holdsSession u.phase = false) : phasePins u = 0x000#11 := by
  unfold phasePins
  split <;> simp_all [holdsSession]

theorem Lines.closed {u : State} (h : Lines u) (hp : holdsSession u.phase = false) :
    u.ses = false ∧ u.pin = 0x000#11 :=
  ⟨h.session.trans hp, h.pins.trans (phasePins_of_closed hp)⟩

/-- What ends or begins an operation's part leaves the lines as its phase says. -/
theorem Quiet.lines {s t : State} (h : Quiet s t) (hs : s.ses = false) (hz : s.pin = 0x000#11) : Lines t :=
  ⟨by rw [h.ses, hs, h.phase], by rw [h.pin, hz, phasePins_of_closed h.phase]⟩

/-- A `PinWrite` in the session that brings the lines to the levels of the next phase. -/
theorem lines_pinWrite {u : State} {ws : List (Role × Bool)} {p : Phase} (hs : u.ses = true)
    (hp : holdsSession p = true) (hw : writeLevels u.pin ws = phasePins ((pinWrite ws u).goto p)) :
    Lines ((pinWrite ws u).goto p) :=
  ⟨by simp [hs, hp], by rw [← hw, State.goto_pin, pinWrite_open ws hs]⟩

section
variable (x : PortIn) {u : State} (h : Lines u)
include h

theorem Lines.session_at {p : Phase} (hp : u.phase = p) : u.ses = holdsSession p := hp ▸ h.session

theorem lines_edgeAcq (hp : u.phase = .acq) : Lines (edgeAcq x u) := by
  obtain ⟨hs, hz⟩ := h.closed (by rw [hp]; rfl)
  unfold edgeAcq; split
  · exact h
  · exact (quiet_raise .deviceUnavailable (u.emit (.acq .fail))).lines hs hz
  · cases hc : configuring u <;> exact ⟨rfl, hz⟩

theorem lines_edgeCfgoe (hp : u.phase = .cfgoe) : Lines (edgeCfgoe x u) := by
  unfold edgeCfgoe; split
  · exact h
  · exact ⟨by simp [h.session_at hp, holdsSession], by simp [h.pins, phasePins, hp]⟩

theorem lines_edgeCfglow (hp : u.phase = .cfglow) : Lines (edgeCfglow x u) := by
  unfold edgeCfglow; split
  · exact h
  · exact lines_pinWrite (h.session_at hp) rfl (writeLevels_low _)

theorem lines_edgeSelect (hp : u.phase = .select) : Lines (edgeSelect x u) := by
  have hz : u.pin = 0x000#11 := by simp [h.pins, phasePins, hp]
  unfold edgeSelect; split
  · exact h
  · exact lines_pinWrite (h.session_at hp) rfl (by simp [hz, phasePins, writeLevels_select])

theorem lines_edgeDrive (hp : u.phase = .drive) : Lines (edgeDrive x u) := by
  have hz : u.pin = frameBits u.dm 0#8 := by simp [h.pins, phasePins, hp]
  unfold edgeDrive; split
  · exact h
  · obtain ⟨hses, hpins⟩ := lines_pinWrite (ws := driveWrites u.val) (p := .setup) (h.session_at hp) rfl
      (by simp [hz, phasePins, writeLevels_drive])
    exact ⟨hses, hpins⟩

theorem lines_countCycle : Lines (countCycle u) := ⟨h.session, h.pins⟩

theorem lines_edgeSetup (hp : u.phase = .setup) : Lines (edgeSetup x u) := by
  have hz : u.pin = frameBits u.dm u.val := by simp [h.pins, phasePins, hp]
  unfold edgeSetup; split
  · obtain ⟨hses, hpins⟩ := lines_pinWrite (u := endWait (countCycle u)) (ws := [(.e, true)]) (p := .high)
      (h.session_at hp) rfl (by simp [hz, phasePins, writeLevels_raise])
    exact ⟨hses, hpins⟩
  · exact lines_countCycle h

theorem lines_edgeHigh (hp : u.phase = .high) : Lines (edgeHigh x u) := by
  have hz : u.pin = eBit ||| frameBits u.dm u.val := by simp [h.pins, phasePins, hp]
  unfold edgeHigh; split
  · obtain ⟨hses, hpins⟩ := lines_pinWrite (u := endWait (countCycle u)) (ws := [(.e, false)]) (p := .fall)
      (h.session_at hp) rfl (by simp [hz, phasePins, writeLevels_lower])
    exact ⟨hses, hpins⟩
  · exact lines_countCycle h

theorem lines_edgeFall (hp : u.phase = .fall) : Lines (edgeFall x u) := by
  unfold edgeFall; split
  · exact h
  · exact lines_pinWrite (h.session_at hp) rfl (writeLevels_low _)

theorem lines_edgeReset (hp : u.phase = .reset) : Lines (edgeReset x u) := by
  unfold edgeReset; split
  · exact h
  · exact ⟨by simp [h.session_at hp, holdsSession], by simp [h.pins, phasePins, hp]⟩

theorem lines_edgeRel (hp : u.phase = .rel) : Lines (edgeRel x u) := by
  have hz : u.pin = 0x000#11 := by simp [h.pins, phasePins, hp]
  unfold edgeRel; split
  · exact h
  · exact (quiet_raise .deviceUnavailable { u with ses := false, trace := u.trace ++ [.rel .fail] }).lines rfl hz
  · exact (quiet_afterTransmission { u with ses := false, trace := u.trace ++ [.rel .ok] }).lines rfl hz

theorem lines_edgeRsp (hp : u.phase = .rsp) : Lines (edgeRsp x u) := by
  obtain ⟨hs, hz⟩ := h.closed (by rw [hp]; rfl)
  unfold edgeRsp; split
  · exact ⟨hs, hz⟩
  · exact h

/-- Every edge of the sequencer. -/
theorem lines_advance : Lines (advance x u) := by
  unfold advance
  split <;> rename_i hp
  case h_1 | h_2 | h_3 => exact h
  case h_4 => exact lines_edgeAcq x h hp
  case h_5 => exact lines_edgeCfgoe x h hp
  case h_6 => exact lines_edgeCfglow x h hp
  case h_7 => exact lines_edgeSelect x h hp
  case h_8 => exact lines_edgeDrive x h hp
  case h_9 => exact lines_edgeSetup x h hp
  case h_10 => exact lines_edgeHigh x h hp
  case h_11 => exact lines_edgeFall x h hp
  case h_12 => exact lines_edgeReset x h hp
  case h_13 => exact lines_edgeRel x h hp
  case h_14 => exact lines_edgeRsp x h hp

end

end Sys2Proof.Machine

/-! ## O14, O15, O16, O12: the invariant

Inside the session (`coherent_of_session`) the lines, the timer and the enables are all there is to show; outside
it the operations' own lemmas of Laws/Coherent.lean end the edge. -/

namespace Sys2Proof.Machine

theorem Coherent.base {s : State} (h : Coherent s) (hp : holdsSession s.phase = false) : Base s := by
  obtain ⟨hs, hz⟩ := h.lines.closed hp
  exact ⟨hs, hz, h.enables, fun hi => h.driven (.inl hi), h.timer⟩

/-- An edge after which the session is held, by what it leaves of the enables. -/
theorem coherent_of_session {s t : State} (h : Coherent s) (hs : s.phase = .acq ∨ holdsSession s.phase = true)
    (ht : holdsSession t.phase = true) (hl : Lines t) (hw : Waits t) (hi : t.initf = s.initf)
    (hreq : t.reqr = s.reqr) (hk : t.k = s.k) (hoe : t.oe = 0x7FF#11 ∨ t.phase = .cfgoe ∧ t.oe = s.oe)
    (hcfg : t.phase = .cfgoe ∨ t.phase = .cfglow → configuring s = true) : Coherent t where
  session := hl.session
  pins := hl.pins
  enables := by
    rcases hoe with hoe | ⟨-, hoe⟩ <;> rw [hoe]
    · exact .inr rfl
    · exact h.enables
  driven hd := by
    rcases hoe with hoe | ⟨hp, hoe⟩
    · exact hoe
    · have hi' : t.initf = true := by simpa [hp, inTransmission] using hd
      rw [hoe]; exact h.driven (.inl (hi ▸ hi'))
  asking hp := by simp [hp, holdsSession] at ht
  guardPassed _ hd := by rw [hi]; exact h.guardPassed hs (hreq ▸ hd)
  config hp := by simpa [configuring, hreq, hk] using hcfg hp
  timer := hw.fits
  setupWait := hw.setup
  pulseWait := hw.pulse
  burst hp := by rcases hp with hp | hp <;> simp [hp, holdsSession] at ht
  text hp := by simp [hp, holdsSession] at ht
  drained hp := by simp [hp, holdsSession] at ht

/-- The machine between operations, or answering one. -/
theorem coherent_of_base {s : State} (hb : Base s) (hp : s.phase = .idle ∨ s.phase = .rsp) : Coherent s := by
  obtain ⟨hs, hz, hoe, hi, htmr⟩ := hb
  rcases hp with hp | hp <;> constructor <;> simp_all [holdsSession, phasePins, inTransmission]

/-! ### The sequencer -/

section
variable (x : PortIn) {s : State} (h : Coherent s)
include h

theorem waits_advance : Waits (advance x s) :=
  (timerStep_advance x s).waits (advance_cfg x s) h.waits

theorem coherent_edgeAcq (hp : s.phase = .acq) : Coherent (edgeAcq x s) := by
  have hb := h.base (by rw [hp]; rfl)
  have hl := lines_edgeAcq x h.lines hp
  have hw : Waits (edgeAcq x s) := by simpa [advance, hp] using waits_advance x h
  unfold edgeAcq at hl hw ⊢
  split
  · exact h
  · exact coherent_raise (by simp) hb
  · next ha =>
    simp only [ha] at hl hw
    refine coherent_of_session h (.inl hp) (by dsimp only; split <;> rfl) hl hw rfl rfl rfl ?_ ?_
    · by_cases hc : configuring s = true
      · exact .inr ⟨if_pos hc, rfl⟩
      · exact .inl (h.asking hp (by simpa using hc))
    · by_cases hc : configuring s = true <;> simp [hc]

theorem coherent_edgeRel (hp : s.phase = .rel) : Coherent (edgeRel x s) := by
  have hz : s.pin = 0x000#11 := by simp [h.pins, phasePins, hp]
  have hoe : s.oe = 0x7FF#11 := h.driven (by simp [hp])
  have hb : ∀ e, Base { s with ses := false, trace := s.trace ++ [e] } := fun e =>
    ⟨rfl, hz, h.enables, fun _ => hoe, h.timer⟩
  unfold edgeRel; split
  · exact h
  · exact coherent_raise (by simp) (hb _)
  · exact coherent_after (hb _) (h.guardPassed (.inr (by rw [hp]; rfl))) hoe

theorem coherent_edgeRsp (hp : s.phase = .rsp) : Coherent (edgeRsp x s) := by
  unfold edgeRsp; split
  · exact coherent_of_base (h.base (by rw [hp]; rfl)) (.inl rfl)
  · exact h

/-- The enables before the release: driven, but for the edges `P_CFGOE` lasts beyond its first. -/
theorem oe_of_beforeRelease (hp : beforeRelease s.phase = true) :
    (advance x s).oe = 0x7FF#11 ∨ (advance x s).phase = .cfgoe ∧ (advance x s).oe = s.oe := by
  by_cases hc : s.phase = .cfgoe
  · have hses : s.ses = true := by rw [h.session, hc]; rfl
    simp only [advance, hc, edgeCfgoe]
    split
    · exact .inr ⟨hc, rfl⟩
    · exact .inl (by rw [State.goto_oe, enableOutputs_open hses])
  · left
    have hd : inTransmission s.phase = true ∨ s.phase = .cfglow := by
      cases hs : s.phase <;> simp_all [beforeRelease, inTransmission]
    rw [(advance_oe x s).resolve_right fun ⟨hp, _⟩ => hc hp]
    exact h.driven (by tauto)

theorem coherent_beforeRelease (hp : beforeRelease s.phase = true) : Coherent (advance x s) := by
  obtain ⟨hi, hk, ht, hoe, hlow⟩ := advance_beforeRelease x hp
  have hs : holdsSession s.phase = true := by cases hs : s.phase <;> simp_all [beforeRelease, holdsSession]
  exact coherent_of_session h (.inr hs) ht (lines_advance x h.lines) (waits_advance x h) hi (advance_reqr x s) hk
    (oe_of_beforeRelease x h hp) fun hp => h.config (hp.elim (.inl ∘ hoe) hlow)

theorem coherent_advance : Coherent (advance x s) := by
  rcases advance_cases x s with hb | ⟨-, he⟩ | ⟨hp, he⟩ | ⟨hp, he⟩ | ⟨hp, he⟩
  · exact coherent_beforeRelease x h hb
  all_goals rw [he]
  · exact h
  · exact coherent_edgeAcq x h hp
  · exact coherent_edgeRel x h hp
  · exact coherent_edgeRsp x h hp

end

/-! ### Acceptance of a word -/

/-- The word of a string's header is read back as one. -/
theorem decode_encode_wrs {len : Int} (hf : fitsArg len = true) (h0 : 0 ≤ len) :
    decodeHeader (encode (.wrs len)) = .ok (.wrs len) := by
  have hn : ¬ len < 0 := by omega
  simp [decodeHeader, encode, encodeOp, encodeFlags, encodeArg, withLength, sext32_ofInt hf, hn]

/-- Once initialised every line is driven. -/
theorem Base.driven {s : State} (h : Base s) (hi : s.initf = true) : s.oe = 0x7FF#11 := by
  obtain ⟨-, -, -, hoe, -⟩ := h
  exact hoe hi

theorem Base.latch {s : State} (h : Base s) (w : ReqWord) : Base (s.latch w) := h

theorem Base.setK {s : State} (h : Base s) (n : Arg) : Base (s.setK n) := h

theorem coherent_startInit {s : State} (hb : Base s) : Coherent (startInit s) := by
  obtain ⟨hs, hz, hoe, hi, htmr⟩ := hb
  have hc : configuring (startInit s) = true := by
    simp [configuring, startInit, decode_encode_init]
  constructor <;> simp_all [startInit, holdsSession, phasePins, inTransmission, decode_encode_init]

theorem coherent_single {v : Int} {d : Bool} {s : State} (hb : Base s) : Coherent (single v d s) :=
  coherent_guarded hb fun hi => coherent_transmit hb (fun _ => hi) (hb.driven hi)

theorem coherent_repeated {v n : Int} {s : State} (hb : Base s) : Coherent (repeated v n s) :=
  coherent_guarded hb fun hi => coherent_move (hb.setK _) (fun _ => hi) (hb.driven hi)

theorem coherent_startWrs {len : Int} {s : State} (hb : Base s)
    (hd : decodeHeader (encode (.wrs len)) = .ok (.wrs len)) : Coherent (startWrs len s) := by
  have hbu : ∀ u : State, u.reqr = encode (.wrs len) → inBurst u = true := fun u hu => by simp [inBurst, hu, hd]
  exact coherent_guardOr (coherent_drainThen (by simp) hb (hbu _ rfl))
    fun hi => coherent_text ((hb.latch _).setK (textCount len)) hi (hbu _ rfl)

/-- A header in `P_IDLE`. -/
theorem coherent_start_header {w : ReqWord} {i : Instr} {s : State} (hb : Base s) (hd : decodeHeader w = .ok i) :
    Coherent (start i s) := by
  obtain ⟨-, hh, hrow⟩ := decodeHeader_ok hd
  cases i with
  | init => exact coherent_startInit hb
  | clr | home | fmt | disp | pos | tx => exact coherent_single (hb.latch _)
  | cur | cul => exact coherent_repeated (hb.latch _)
  | wrs len =>
    obtain ⟨-, rfl, h0⟩ := hrow
    exact coherent_startWrs hb (decode_encode_wrs (fitsArg_sext32 _) h0)
  | chr => exact hrow.elim

theorem coherent_drainWord {s : State} (h : Coherent s) (hp : s.phase = .drain) : Coherent (drainWord s) := by
  have hb := h.base (by rw [hp]; rfl)
  unfold drainWord; split
  · exact coherent_respond (hb.setK _)
  · next hk =>
    obtain ⟨hbu, -⟩ := h.burst (.inr hp)
    have hstat := h.drained hp
    obtain ⟨hs, hz, hoe, hi, htmr⟩ := hb
    have hbu' : inBurst (s.setK (s.k - 1#32)) = true := hbu
    constructor <;> simp_all [holdsSession, phasePins, inTransmission]

/-- A payload word of a burst. -/
theorem coherent_start_payload {cp : Int} {s : State} (h : Coherent s) (hp : s.phase = .payload ∨ s.phase = .drain) :
    Coherent (start (.chr cp) s) := by
  show Coherent (if s.phase = .drain then drainWord s else textWord cp s)
  split
  · exact coherent_drainWord h ‹_›
  · have hp : s.phase = .payload := hp.resolve_right ‹_›
    have hi := h.text hp
    exact coherent_transmit ((h.base (by rw [hp]; rfl)).setK _) (fun _ => hi) (h.driven (.inl hi))

theorem coherent_start {w : ReqWord} {i : Instr} {s : State} (h : Coherent s) (hw : takesWord s.phase = true)
    (hd : readWord s.phase w = .ok i) : Coherent (start i s) := by
  unfold readWord at hd
  split at hd
  · next hp => exact coherent_start_header (h.base (by rw [hp]; rfl)) hd
  · cases hd
    exact coherent_start_payload h (by cases hp : s.phase <;> simp_all [takesWord])

/-! ### Edges, runs and steps -/

/-- Settles O15: an edge is a reset, the acceptance of a word, or the sequencer's. -/
theorem everyClockEdgeKeepsTheInvariant : Obligations.EveryClockEdgeKeepsTheInvariant := by
  intro x s h
  by_cases hr : x.rst = true
  · simpa [clockEdge, hr] using coherent_reset s
  rcases clockEdge_cases s (by simpa using hr) with ⟨hw, i, hd, he⟩ | ⟨hw, he⟩ | he <;> rw [he]
  · exact coherent_start h hw hd
  · exact coherent_respond (h.base (holdsSession_of_takesWord hw))
  · exact coherent_advance x h

theorem coherent_clockEdges (n : Nat) : ∀ {s : State}, Coherent s → Coherent (clockEdges n s) := by
  induction n with
  | zero => exact id
  | succ n ih =>
    intro s h
    unfold clockEdges
    split
    · exact h
    · exact ih (everyClockEdgeKeepsTheInvariant _ _ (coherent_inputs _ h))

/-- Settles O14: a step is a number of clock edges (O9), and each keeps the invariant (O15). -/
theorem everyStepKeepsTheInvariant : Obligations.EveryStepKeepsTheInvariant := by
  intro s t h hstep
  obtain ⟨n, -, ht, -⟩ := stepIsAWholeNumberOfClockEdges s t hstep
  exact ht ▸ coherent_clockEdges n h

/-- Settles O16: the clauses on the session, the lines and the enables, in `P_IDLE`. -/
theorem idleMeansClosedAndLow : Obligations.IdleMeansClosedAndLow := by
  intro n s h hp
  have hn := coherent_clockEdges n h
  obtain ⟨hs, hz⟩ := hn.lines.closed (by rw [hp]; rfl)
  exact ⟨hs, fun hoe => ⟨hn.enables.resolve_left hoe, hz⟩⟩

/-- Settles O12: the values of R28, and the reset state as one between operations. -/
theorem resetStateHasTheSpecsValues : Obligations.ResetStateHasTheSpecsValues :=
  ⟨rfl, rfl, rfl, rfl, rfl,
    coherent_of_base ⟨rfl, rfl, .inl rfl, by simp [State.reset], by simp [State.reset]⟩ (.inl rfl), by decide⟩

end Sys2Proof.Machine

/-! ## O10, O30: the parameters and the lines -/

namespace Sys2Proof.Machine

theorem mem_allRoles (r : Role) : r ∈ allRoles := by cases r <;> decide

theorem boundLine_eq_getElem (c : Config) (r : Role) :
    boundLine c r = c.bind.toList[roleIdx r]'(by simpa using roleIdx_lt r) := by
  simp [boundLine, roleIdx_lt]

/-- The binding is the list of the roles' lines (R5, R23). -/
theorem map_boundLine_allRoles (c : Config) : allRoles.map (boundLine c) = c.bind.toList := by
  have hidx : ∀ i (h : i < allRoles.length), roleIdx allRoles[i] = i := by decide
  apply List.ext_getElem (by simp [allRoles])
  intro i h1 h2
  rw [List.getElem_map, boundLine_eq_getElem]
  congr 1
  exact hidx i (by simpa using h1)

/-- When a configuration is one that R138 does not refuse. -/
theorem usableConfig_iff (c : Config) : usableConfig c = true ↔
    0 < c.clkHz ∧ (∀ r q : Role, boundLine c r = boundLine c q → r = q) ∧
      ∀ r : Role, boundLine c r ∈ c.outputLines := by
  have hnodup : c.bind.toList.Nodup ↔ ∀ r q : Role, boundLine c r = boundLine c q → r = q := by
    rw [← map_boundLine_allRoles, List.nodup_map_iff_inj_on (by decide)]
    simp [mem_allRoles]
  have hout : (c.bind.toList.all (c.outputLines.contains ·)) = true ↔ ∀ r : Role, boundLine c r ∈ c.outputLines := by
    rw [← map_boundLine_allRoles]
    simp [mem_allRoles]
  unfold usableConfig
  rw [Bool.and_eq_true, Bool.and_eq_true, decide_eq_true_iff, decide_eq_true_iff, hnodup, hout, and_assoc]

theorem clockEdges_cfg (n : Nat) : ∀ s : State, (clockEdges n s).cfg = s.cfg := by
  induction n with
  | zero => exact fun _ => rfl
  | succ n ih =>
    intro s
    unfold clockEdges
    split
    · rfl
    · rw [ih, clockEdge_cfg]

/-- Settles O10: a step is refused before anything else is looked at, and its edges keep the parameters. -/
theorem onlyAnUnusableConfigurationIsRefused : Obligations.OnlyAnUnusableConfigurationIsRefused := by
  intro s
  refine ⟨fun hc => by simp [step, hc], fun hc => ?_, usableConfig_iff s.cfg⟩
  obtain ⟨t, hstep⟩ : ∃ t, step s = .next t := by
    cases hi : s.inputs with
    | nil => exact ⟨_, step_nil hc hi⟩
    | cons x xs => exact ⟨_, step_cons hc hi⟩
  obtain ⟨n, -, ht, -⟩ := stepIsAWholeNumberOfClockEdges s t hstep
  exact ⟨t, hstep, by rw [ht, clockEdges_cfg]⟩

/-- A pad's level is determined where the role is enabled and the pads are known, and is then `PIN`'s. -/
theorem padLevel_eq_some_iff (s : State) (r : Role) (b : Bool) : padLevel s r = some b ↔
    (level s.oe r = true ∧ padsKnown s.trace = true) ∧ level s.pin r = b := by
  simp [padLevel]

/-- With the roles on distinct lines, the role found on a role's line is that role. -/
theorem lineLevel_boundLine {s : State} (h : usableConfig s.cfg = true) (r : Role) :
    lineLevel s (boundLine s.cfg r) = padLevel s r := by
  obtain ⟨-, hinj, -⟩ := (usableConfig_iff s.cfg).1 h
  have hfind : allRoles.find? (fun q => boundLine s.cfg q == boundLine s.cfg r) = some r := by
    have hq : ∀ q : Role, (boundLine s.cfg q == boundLine s.cfg r) = (q == r) := fun q => by
      rw [Bool.eq_iff_iff, beq_iff_eq, beq_iff_eq]
      exact ⟨hinj q r, congrArg _⟩
    simp only [hq]
    cases r <;> rfl
  simp [lineLevel, hfind]

/-- Right after a failed acquisition no pad is known to carry `PIN` (R124). -/
theorem padsKnown_acq_fail (tr : List Event) : padsKnown (tr ++ [.acq .fail]) = false := by
  simp [padsKnown, padsAfter]

/-- Settles O30: a line has the level of the role found on it. -/
theorem drivenLinesCarryPin : Obligations.DrivenLinesCarryPin := by
  refine ⟨fun s line b h => ?_, fun s r hoe hk => ?_, fun s r hc hoe hk => ?_, fun s r => ?_⟩
  · unfold lineLevel at h
    split at h
    · next r hfind =>
      obtain ⟨⟨hoe, -⟩, rfl⟩ := (padLevel_eq_some_iff s r b).1 h
      exact ⟨r, by simpa using List.find?_some hfind, hoe, rfl⟩
    · cases h
  · exact (padLevel_eq_some_iff s r _).2 ⟨⟨hoe, hk⟩, rfl⟩
  · rw [lineLevel_boundLine hc]
    exact (padLevel_eq_some_iff s r _).2 ⟨⟨hoe, hk⟩, rfl⟩
  · simp [padLevel, padsKnown_acq_fail]

end Sys2Proof.Machine

/-! ## O27, O33: the response, and the requests that are refused for their operand -/

namespace Sys2Proof.Machine

theorem advance_rsp (x : PortIn) {s : State} (hp : s.phase = .rsp) : advance x s = edgeRsp x s := by
  simp [advance, hp]

/-- Without `rsp_ready` the run is over the samples alone. -/
theorem settleFrom_rsp_held : ∀ (xs : List PortIn) (s : State), s.phase = .rsp → (∀ x ∈ xs, x.rst = false) →
    (∀ x ∈ xs, x.rspReady = false) → settleFrom xs s = { s with inputs := [] }
  | [], _, _, _, _ => rfl
  | x :: xs, s, hp, hr, hh => by
    have he : busyEdge x s = s := by
      simp [busyEdge, hr x List.mem_cons_self, advance_rsp x hp, edgeRsp, hh x List.mem_cons_self]
    rw [settleFrom_busy _ _ (by rw [hp]; rfl), he]
    exact settleFrom_rsp_held xs s hp (fun y hy => hr y (List.mem_cons_of_mem x hy))
      fun y hy => hh y (List.mem_cons_of_mem x hy)

/-- In `P_RSP` no request word is taken. -/
theorem clockEdge_rsp {x : PortIn} {s : State} (hp : s.phase = .rsp) (hr : x.rst = false) :
    clockEdge x s = edgeRsp x s := by
  simp [clockEdge, hr, hp, takesWord, advance_rsp x hp]

/-- A step in `P_RSP` while the host does not take the response. -/
theorem step_rsp_held {s : State} (hc : usableConfig s.cfg = true) (hr : NoReset s) (hp : s.phase = .rsp)
    (hh : ∀ x ∈ s.inputs, x.rspReady = false) : step s = .next { s with inputs := [] } := by
  cases hi : s.inputs with
  | nil => rw [step_nil hc hi, ← hi]
  | cons x xs =>
    simp only [NoReset, hi, List.forall_mem_cons] at hr hh
    have he : clockEdge x (s.withInputs xs) = s.withInputs xs := by
      rw [clockEdge_rsp (s := s.withInputs xs) hp hr.1, edgeRsp, hh.1]; rfl
    rw [step_cons hc hi, he]
    exact congrArg _ (settleFrom_rsp_held xs (s.withInputs xs) hp hr.2 hh.2)

/-- Settles O27: `P_RSP` is left by `rsp_ready` alone, and the ports are functions of `PHASE` and `STAT`. -/
theorem responseIsHeldUntilTaken : Obligations.ResponseIsHeldUntilTaken := by
  refine ⟨fun s t hc hr hp hh hstep => ?_, fun x s hp hr hready => ?_, fun s => ?_⟩
  · rw [step_rsp_held hc hr hp hh] at hstep
    exact (Host.Outcome.next.inj hstep).symm
  · rw [clockEdge_rsp hp hr, edgeRsp, if_pos hready]; rfl
  · have hready : takesWord s.phase = true ↔ s.phase = .idle ∨ s.phase = .payload ∨ s.phase = .drain := by
      cases s.phase <;> decide
    refine ⟨by simp [outputs], hready, by simp [busy], ?_, ?_, ?_, ?_, ?_⟩ <;> intro hs <;> simp [outputs, hs, statusCode]

/-- The operand of `POS` decides whether its value is out of range (R97). -/
theorem posValue_outOfRange {col : Int} (secondLine : Bool) (h : inByteRange col = false) :
    inByteRange (posValue col secondLine) = false := by
  unfold posValue
  cases col with
  | negSucc b => simp [orZ, inByteRange]
  | ofNat b =>
    have hle : b ≤ (0x80 ||| flagValue secondLine 0x40) ||| b := Nat.right_le_or
    simp [inByteRange, orZ] at h ⊢
    omega

/-- An operation of one transmission whose value is out of range answers at acceptance (R72, R76). -/
theorem single_outOfRange {i : Instr} {v : Int} {s : State} (d : Bool) (hi : s.initf = true)
    (hop : encodeOp i ≠ 0x09#8) (hv : inByteRange v = false) :
    single v d (s.latch (encode i)) = respond .invalidCommand (s.latch (encode i)) := by
  rw [single, guarded_on (by simpa using hi)]
  simp only [transmit, hv, Bool.false_eq_true, if_false]
  exact raise_single (inBurst_of_latched rfl hop)

/-- The two requests whose operand can be out of range. -/
theorem start_outOfRange {i : Instr} {s : State} (hi : s.initf = true)
    (hr : (∃ v d, i = .tx v d ∧ inByteRange v = false) ∨ (∃ c b, i = .pos c b ∧ inByteRange c = false)) :
    start i s = respond .invalidCommand (s.latch (encode i)) := by
  rcases hr with ⟨v, d, rfl, hv⟩ | ⟨c, b, rfl, hc⟩
  · exact single_outOfRange d hi (by simp [encodeOp]) hv
  · exact single_outOfRange false hi (by simp [encodeOp]) (posValue_outOfRange b hc)

theorem inByteRange_eq_false_iff (n : Int) : inByteRange n = false ↔ n < 0 ∨ 255 < n := by
  simp [inByteRange]; omega

/-- Settles O33: the accepting edge has answered before it asks for a session. -/
theorem outOfRangeIsInvalidCommand : Obligations.OutOfRangeIsInvalidCommand := by
  intro i s hi hr
  rw [exec_eq_settle_start, start_outOfRange hi (by simpa only [inByteRange_eq_false_iff] using hr)]
  rfl

end Sys2Proof.Machine

/-! ## O50, O51, O52: the frames of the operations

Each is a run's invariant: it holds at the accepting edge and is kept by every edge of the sequencer. -/

namespace Sys2Proof.Machine

/-- What holds after acceptance, and is kept by every edge whatever the samples, holds after the operation. -/
theorem exec_induct {P : State → Prop} {i : Instr} {s t : State} (hexec : exec i s = .next t) (hr : NoReset s)
    (hin : ∀ u l, P u → P { u with inputs := l })
    (hedge : ∀ x u, takesWord u.phase = false → P u → P (advance x u)) (h : P (start i s)) : P t := by
  rw [exec_eq_settle_start] at hexec
  cases hexec
  refine settle_induct hin ?_ hedge h
  simpa [NoReset, (start_same i s).inputs] using hr

/-! ### Any operation -/

/-- What every operation keeps from `s` on: the parameters and the draws, the word in `REQR`, and lines as the
phase says. -/
structure InFlight (s : State) (w : ReqWord) (u : State) : Prop where
  lines : Lines u
  cfg : u.cfg = s.cfg
  draws : u.draws = s.draws
  reqr : u.reqr = w

theorem InFlight.advance {s u : State} {w : ReqWord} (h : InFlight s w u) (x : PortIn) :
    InFlight s w (advance x u) := by
  obtain ⟨hreqr, hcfg, -, hdraws⟩ := advance_same x u
  exact ⟨lines_advance x h.lines, hcfg.trans h.cfg, hdraws.trans h.draws, hreqr.trans h.reqr⟩

/-- Outside the session the lines and `SES` are as they were before the operation. -/
theorem InFlight.closed {s u : State} {w : ReqWord} (h : InFlight s w u) (hs : s.ses = false)
    (hz : s.pin = 0x000#11) (hp : holdsSession u.phase = false) : u.pin = s.pin ∧ u.ses = s.ses := by
  obtain ⟨hses, hpin⟩ := h.lines.closed hp
  exact ⟨hpin.trans hz.symm, hses.trans hs.symm⟩

/-- An operation begun between two transmissions. -/
theorem inFlight_exec {i : Instr} {s t : State} (hs : s.ses = false) (hz : s.pin = 0x000#11) (hr : NoReset s)
    (hexec : exec i s = .next t) : InFlight s (if i.isHeader then encode i else s.reqr) t := by
  have hsame := start_same i s
  refine exec_induct hexec hr (fun u l h => ⟨⟨h.lines.session, h.lines.pins⟩, h.cfg, h.draws, h.reqr⟩)
    (fun x u _ h => h.advance x) ⟨(quiet_start i s).lines hs hz, ?_, ?_, ?_⟩
  · simp [hsame.cfg]
  · simp [hsame.draws]
  · simp [hsame.reqr]

/-! ### Any operation but `INIT` -/

theorem configuring_of_decode {s : State} (h : decodeHeader s.reqr ≠ .ok .init) : configuring s = false := by
  unfold configuring
  split
  · next hd => exact absurd hd h
  · rfl

/-- Only a session of `INIT` enables the outputs. -/
theorem advance_phase_ne_cfgoe (x : PortIn) {s : State} (hc : configuring s = false) (hp : s.phase ≠ .cfgoe) :
    (advance x s).phase ≠ .cfgoe := by
  have closed : ∀ {u : State}, holdsSession u.phase = false → u.phase ≠ .cfgoe := fun h hp => by
    simp [hp, holdsSession] at h
  rcases advance_cases x s with hb | ⟨-, he⟩ | ⟨-, he⟩ | ⟨-, he⟩ | ⟨-, he⟩
  · obtain ⟨-, -, -, hoe, -⟩ := advance_beforeRelease x hb
    exact fun ht => hp (hoe ht)
  all_goals rw [he]
  · exact hp
  · unfold edgeAcq; split
    · exact hp
    · exact closed (quiet_raise ..).phase
    · simp [hc]
  · unfold edgeRel; split
    · exact hp
    · exact closed (quiet_raise ..).phase
    · exact closed (quiet_afterTransmission _).phase
  · unfold edgeRsp; split
    · simp
    · exact hp

/-- What an operation other than `INIT` keeps from `s` on. -/
structure SameMode (s u : State) : Prop where
  notInit : decodeHeader u.reqr ≠ .ok .init
  phase : u.phase ≠ .cfgoe
  initf : u.initf = s.initf
  oe : u.oe = s.oe

theorem SameMode.advance {s u : State} (h : SameMode s u) (x : PortIn) : SameMode s (advance x u) where
  notInit := by rw [advance_reqr x u]; exact h.notInit
  phase := advance_phase_ne_cfgoe x (configuring_of_decode h.notInit) h.phase
  initf := ((advance_initf x u).resolve_right fun ⟨hd, _⟩ => h.notInit hd).trans h.initf
  oe := ((advance_oe x u).resolve_right fun ⟨hp, _⟩ => h.phase hp).trans h.oe

theorem sameMode_exec {i : Instr} {s t : State} (hr : NoReset s) (hexec : exec i s = .next t)
    (hd : decodeHeader (if i.isHeader then encode i else s.reqr) ≠ .ok .init) : SameMode s t := by
  have hsame := start_same i s
  refine exec_induct hexec hr (fun u l h => ⟨h.notInit, h.phase, h.initf, h.oe⟩) (fun x u _ h => h.advance x)
    ⟨by simpa [hsame.reqr] using hd, fun hp => ?_, start_initf i s, by simp [hsame.oe]⟩
  simpa [hp, holdsSession] using (quiet_start i s).phase

/-- A request's word is no `INIT` unless the request is. -/
theorem decode_encode_ne_init {i : Instr} (h : encodeOp i ≠ 0x01#8) : decodeHeader (encode i) ≠ .ok .init :=
  fun hd => h (encodeOp_of_latched rfl hd)

theorem decode_ne_init_of_inBurst {s : State} (h : inBurst s = true) : decodeHeader s.reqr ≠ .ok .init := by
  unfold inBurst at h
  split at h <;> simp_all

/-! ### A request that is answered at once -/

/-- After a response there is nothing but to take it. -/
theorem settle_of_rsp {s : State} (hp : s.phase = .rsp) (hr : NoReset s) :
    ∃ l p, settle s = { s with inputs := l, phase := p } := by
  obtain ⟨l, p, -, h⟩ : ∃ l p, (p = .rsp ∨ p = .idle) ∧ settle s = { s with inputs := l, phase := p } := by
    refine settle_induct (P := fun u => ∃ l p, (p = .rsp ∨ p = .idle) ∧ u = { s with inputs := l, phase := p })
      ?_ hr ?_ ⟨s.inputs, s.phase, .inl hp, rfl⟩
    · rintro u l ⟨-, p, hp, rfl⟩
      exact ⟨l, p, hp, rfl⟩
    · rintro x u hw ⟨l, p, rfl | rfl, rfl⟩
      · rw [advance_rsp x rfl]
        unfold edgeRsp; split
        · exact ⟨l, .idle, .inr rfl, rfl⟩
        · exact ⟨l, .rsp, .inl rfl, rfl⟩
      · cases hw
  exact ⟨l, p, h⟩

/-- A request that is answered at acceptance changes `REQR`, `STAT`, `PHASE` and the trace. -/
theorem exec_of_respond {i : Instr} {c : Status} {s t : State} {w : ReqWord} (hr : NoReset s)
    (hexec : exec i s = .next t) (h : start i s = respond c (s.latch w)) :
    ∃ l p, t = { respond c (s.latch w) with inputs := l, phase := p } := by
  rw [exec_eq_settle_start, h] at hexec
  cases hexec
  exact settle_of_rsp rfl hr

/-- Before `INIT` the guard answers at once, unless there are words of a burst to take (R106). -/
theorem guarded_refused {i : Instr} {body : State → State} {s : State} (hi : s.initf = false)
    (hop : encodeOp i ≠ 0x09#8) :
    guarded body (s.latch (encode i)) = respond .notInitialized (s.latch (encode i)) := by
  rw [guarded_off (by simpa using hi), raise_single (inBurst_of_latched rfl hop)]

/-! ### The requests of one transmission -/

/-- The operations that make one transmission and answer (R80, R90). -/
def isSingle : Instr → Bool
  | .clr | .home | .fmt _ _ | .disp _ _ _ | .pos _ _ | .tx _ _ => true
  | .init | .cur _ | .cul _ | .wrs _ | .chr _ => false

section
variable {i : Instr} (h : isSingle i = true)
include h

/-- Their code is that of no other operation. -/
theorem encodeOp_of_isSingle :
    encodeOp i ≠ 0x01#8 ∧ encodeOp i ≠ 0x06#8 ∧ encodeOp i ≠ 0x07#8 ∧ encodeOp i ≠ 0x09#8 := by
  cases i <;> simp [isSingle, encodeOp] at h ⊢

theorem isHeader_of_isSingle : i.isHeader = true := by
  cases i <;> simp [isSingle, Instr.isHeader] at h ⊢

/-- They are accepted alike. -/
theorem start_of_isSingle (s : State) : ∃ v d, start i s = single v d (s.latch (encode i)) := by
  cases i with
  | clr | home | fmt | disp | pos | tx => exact ⟨_, _, rfl⟩
  | init | cur | cul | wrs | chr => cases h

/-- They do not use `K`. -/
theorem advance_k_of_isSingle (x : PortIn) {u : State} (hreq : u.reqr = encode i) : (advance x u).k = u.k := by
  obtain ⟨hinit, hcur, hcul, hwrs⟩ := encodeOp_of_isSingle h
  rcases advance_cases x u with hb | ⟨-, he⟩ | ⟨-, he⟩ | ⟨-, he⟩ | ⟨-, he⟩
  · obtain ⟨-, hk, -⟩ := advance_beforeRelease x hb
    exact hk
  all_goals rw [he]
  · unfold edgeAcq; split
    · rfl
    · exact raise_k ..
    · rfl
  · unfold edgeRel; split
    · rfl
    · exact raise_k ..
    · rw [afterTransmission_single (i := i) ?_ hinit hcur hcul hwrs]
      · rfl
      · exact hreq
  · unfold edgeRsp; split <;> rfl

theorem k_of_isSingle {s t : State} (hr : NoReset s) (hexec : exec i s = .next t) : t.k = s.k := by
  have hsame := start_same i s
  suffices hP : t.k = s.k ∧ t.reqr = encode i from hP.1
  refine exec_induct (P := fun u => u.k = s.k ∧ u.reqr = encode i) hexec hr (fun u l hu => hu)
    (fun x u _ ⟨hk, hreq⟩ => ⟨?_, ?_⟩) ⟨?_, ?_⟩
  · rw [advance_k_of_isSingle h x hreq, hk]
  · rw [advance_reqr x u, hreq]
  · obtain ⟨v, d, hs⟩ := start_of_isSingle h s
    rw [hs]
    exact guardOr_induct (P := (·.k = s.k)) (raise_k ..) (transmit_k ..)
  · simp [hsame.reqr, isHeader_of_isSingle h]

/-- Before `INIT`, or without a byte to send, they are answered at acceptance (R76, R106). -/
theorem start_of_isSingle_refused {s : State} (hr : s.initf = false ∨ singleByte i = none) :
    ∃ c, start i s = respond c (s.latch (encode i)) := by
  by_cases hi : s.initf = true
  · have hnone : singleByte i = none := hr.resolve_left (by simp [hi])
    refine ⟨.invalidCommand, start_outOfRange hi ?_⟩
    cases i with
    | pos col b => exact .inr ⟨col, b, rfl, by simpa [singleByte, inByteRange] using hnone⟩
    | tx v d => exact .inl ⟨v, d, rfl, by simpa [singleByte, inByteRange] using hnone⟩
    | clr | home | fmt | disp => cases hnone
    | init | cur | cul | wrs | chr => cases h
  · obtain ⟨-, -, -, hwrs⟩ := encodeOp_of_isSingle h
    obtain ⟨v, d, hs⟩ := start_of_isSingle h s
    exact ⟨_, hs.trans (guarded_refused (by simpa using hi) hwrs)⟩

end

/-- Settles O50: the run's invariants for the fields, and the answer at acceptance for the refused forms. -/
theorem singleCommandFrame : Obligations.SingleCommandFrame := by
  intro i s t hform _ ⟨_, hs, hz⟩ hr hexec
  have h : isSingle i = true := by
    rcases hform with rfl | rfl | ⟨a, b, rfl⟩ | ⟨a, b, c, rfl⟩ | ⟨a, b, rfl⟩ | ⟨a, b, rfl⟩ <;> rfl
  have hhead := isHeader_of_isSingle h
  obtain ⟨hinit, -⟩ := encodeOp_of_isSingle h
  have hfl := inFlight_exec hs hz hr hexec
  have hmode := sameMode_exec hr hexec (by simpa [hhead] using decode_encode_ne_init hinit)
  refine ⟨hmode.initf, hmode.oe, k_of_isSingle h hr hexec, hfl.cfg, hfl.draws, by simpa [hhead] using hfl.reqr,
    fun hp => hfl.closed hs hz (by rw [hp]; rfl), fun hrefused => ?_⟩
  obtain ⟨c, hc⟩ := start_of_isSingle_refused h hrefused
  obtain ⟨l, p, rfl⟩ := exec_of_respond hr hexec hc
  exact ⟨rfl, rfl, rfl, rfl, rfl, rfl, rfl⟩

/-! ### The counted requests -/

/-- Before `INIT` a cursor move, and a string with no words to take, are answered at acceptance (R98, R106). -/
theorem start_counted_refused {i : Instr} {s : State} (hi : s.initf = false)
    (hform : (∃ n, i = .cur n) ∨ (∃ n, i = .cul n) ∨ i = .wrs 0) :
    start i s = respond .notInitialized (s.latch (encode i)) := by
  rcases hform with ⟨n, rfl⟩ | ⟨n, rfl⟩ | rfl
  · rw [start, startCur, repeated, guarded_refused hi (by simp [encodeOp])]
  · rw [start, startCul, repeated, guarded_refused hi (by simp [encodeOp])]
  · rw [start, startWrs, guardOr_off (by simpa using hi)]; rfl

/-- Settles O51: the run's invariants for the fields, and the answer at acceptance for the refused forms. -/
theorem countedCommandFrame : Obligations.CountedCommandFrame := by
  intro i s t hform hr hexec
  have ⟨hs, hz, hd⟩ : s.ses = false ∧ s.pin = 0x000#11 ∧
      decodeHeader (if i.isHeader then encode i else s.reqr) ≠ .ok .init := by
    rcases hform with ⟨hcount, -, -, hs, hz⟩ | ⟨⟨c, rfl⟩, ⟨-, hs, hz, hb, -⟩ | ⟨-, hs, hz, hb⟩⟩
    · refine ⟨hs, hz, ?_⟩
      rcases hcount with ⟨n, rfl⟩ | ⟨n, rfl⟩ | ⟨n, rfl⟩ <;> exact decode_encode_ne_init (by simp [encodeOp])
    · exact ⟨hs, hz, decode_ne_init_of_inBurst hb⟩
    · exact ⟨hs, hz, decode_ne_init_of_inBurst hb⟩
  have hfl := inFlight_exec hs hz hr hexec
  have hmode := sameMode_exec hr hexec hd
  refine ⟨hmode.initf, hmode.oe, hfl.cfg, hfl.draws, hfl.reqr,
    fun hw => hfl.closed hs hz (holdsSession_of_takesWord hw), fun hi hrefused => ?_⟩
  obtain ⟨l, p, rfl⟩ := exec_of_respond hr hexec (start_counted_refused hi hrefused)
  exact ⟨rfl, rfl, rfl, rfl, rfl⟩

/-! ### `INIT` -/

/-- What `INIT` has made of the enables and the mode since `s`: the mode is set with the answer `OK`. -/
structure Initialising (s u : State) : Prop where
  oe : u.oe = s.oe ∨ u.oe = 0x7FF#11
  initf : u.initf = s.initf ∨ u.initf = true ∧ u.stat = .ok ∧ (u.phase = .rsp ∨ u.phase = .idle)

theorem Initialising.advance {s u : State} (h : Initialising s u) (x : PortIn) (hw : takesWord u.phase = false) :
    Initialising s (advance x u) where
  oe := by
    rcases advance_oe x u with hoe | ⟨-, -, hoe⟩ <;> rw [hoe]
    · exact h.oe
    · exact .inr rfl
  initf := by
    rcases h.initf with hi | ⟨hi, hstat, hp | hp⟩
    · rcases advance_initf x u with hi' | ⟨-, hi', hstat, hp⟩
      · exact .inl (hi'.trans hi)
      · exact .inr ⟨hi', hstat, .inl hp⟩
    · right
      rw [advance_rsp x hp]
      unfold edgeRsp; split
      · exact ⟨hi, hstat, .inr rfl⟩
      · exact ⟨hi, hstat, .inl hp⟩
    · simp [hp, takesWord] at hw

/-- Settles O52: the mode is set by the edge that answers `OK`, and `OE` by that of step 2. -/
theorem initFrame : Obligations.InitFrame := by
  intro s t ⟨_, hs, hz⟩ hr hexec
  have hfl := inFlight_exec hs hz hr hexec
  have hinit : Initialising s t :=
    exec_induct hexec hr (fun u l h => ⟨h.oe, h.initf⟩) (fun x u hw h => h.advance x hw) ⟨.inl rfl, .inl rfl⟩
  refine ⟨hfl.cfg, hfl.draws, hfl.reqr, hinit.oe, fun hi => ?_, fun hne => ?_,
    fun hp => hfl.closed hs hz (by rw [hp]; rfl)⟩
  · rcases hinit.initf with h | ⟨h, -⟩
    · rw [h, hi]
    · exact h
  · obtain ⟨-, hstat, -⟩ := hinit.initf.resolve_left hne
    exact hstat

end Sys2Proof.Machine

/-! ## O7, O18: the header's step, and the lines around the pulse -/

namespace Sys2Proof.Machine

/-- A step at which a word is offered that reads as a request is `exec` of it. -/
theorem step_of_word {s : State} {x : PortIn} {xs : List PortIn} {i : Instr} (hc : usableConfig s.cfg = true)
    (hi : s.inputs = x :: xs) (hr : x.rst = false) (hv : x.reqValid = true) (hw : takesWord s.phase = true)
    (hd : readWord s.phase x.reqData = .ok i) : step s = exec i (s.withInputs xs) := by
  rw [step_cons hc hi, clockEdge_eq_start (s := s.withInputs xs) hr hw hv hd, exec_eq_settle_start]

/-- Settles O7: in `P_IDLE` a word is read as a header. -/
theorem stepRunsTheDecodedHeader : Obligations.StepRunsTheDecodedHeader := by
  intro s x xs i hc hi hr hv hp hd
  exact step_of_word hc hi hr hv (by rw [hp]; rfl) (by rw [readWord, if_pos hp, hd])

/-! ### RW -/

@[simp] theorem level_rw_frameBits (dm : Bool) (v : Byte) : level (frameBits dm v) .rw = false := by
  revert dm v; decide

@[simp] theorem level_rw_pulse (dm : Bool) (v : Byte) : level (eBit ||| frameBits dm v) .rw = false := by
  revert dm v; decide

/-- RW is low in every phase (R42). -/
theorem level_rw_phasePins (s : State) : level (phasePins s) .rw = false := by
  unfold phasePins
  split <;> simp

/-! ### The edges of E -/

/-- A `PinWrite` of E alone changes no other line. -/
theorem level_pinWrite_e (b : Bool) (s : State) {r : Role} (h : r ≠ .e) :
    level (pinWrite [(.e, b)] s).pin r = level s.pin r := by
  unfold pinWrite; split
  · simp [writeLevels, level_setLevel, h]
  · rfl

theorem level_edgeSetup (x : PortIn) (s : State) {r : Role} (h : r ≠ .e) :
    level (edgeSetup x s).pin r = level s.pin r := by
  unfold edgeSetup; split
  · exact level_pinWrite_e true (endWait (countCycle s)) h
  · rfl

theorem level_edgeHigh (x : PortIn) (s : State) {r : Role} (h : r ≠ .e) :
    level (edgeHigh x s).pin r = level s.pin r := by
  unfold edgeHigh; split
  · exact level_pinWrite_e false (endWait (countCycle s)) h
  · rfl

/-- In a phase that takes no word an edge without reset is the sequencer's. -/
theorem clockEdge_eq_advance {x : PortIn} {s : State} (hr : x.rst = false) (hw : takesWord s.phase = false) :
    clockEdge x s = advance x s := by
  simp [clockEdge, hr, hw]

/-- The edges at which E is high before or after are those of the two waits (R73). -/
theorem pulse_phase {x : PortIn} {s : State} (h : Coherent s) (hr : x.rst = false)
    (he : level s.pin .e = true ∨ level (clockEdge x s).pin .e = true) : s.phase = .setup ∨ s.phase = .high := by
  rcases he with he | he
  · right; simpa [h.phaseTells.pulse] using he
  · have ht : (clockEdge x s).phase = .high := by
      simpa [(everyClockEdgeKeepsTheInvariant x s h).phaseTells.pulse] using he
    cases timerStep_clockEdge s hr with
    | setup _ hp => simp [hp] at ht
    | pulse hs => exact .inl hs
    | fall hs => exact .inr hs
    | count hs => exact hs
    | hold _ hp => exact absurd ht hp.2

/-- Settles O18: E rises and falls in the two waits, whose edges write E alone. -/
theorem linesAreStableAroundThePulse : Obligations.LinesAreStableAroundThePulse := by
  intro x s h hr
  refine ⟨by rw [h.pins, level_rw_phasePins], fun he r hne => ?_⟩
  rcases pulse_phase h hr he with hp | hp
  · rw [clockEdge_eq_advance hr (by rw [hp]; rfl), show advance x s = edgeSetup x s by simp [advance, hp]]
    exact level_edgeSetup x s hne
  · rw [clockEdge_eq_advance hr (by rw [hp]; rfl), show advance x s = edgeHigh x s by simp [advance, hp]]
    exact level_edgeHigh x s hne

end Sys2Proof.Machine

/-! ## O23: the responses of an operation

A response is recorded where `P_RSP` is entered, and nowhere else; so the phase tells how many the operation in
flight has given. -/

namespace Sys2Proof.Machine

/-- How many responses the operation in flight has given by this phase: one once `P_RSP` is reached. -/
def answers : Phase → Nat
  | .rsp | .idle => 1
  | .payload | .drain | .acq | .cfgoe | .cfglow | .select | .drive | .setup | .high | .fall | .reset | .rel => 0

theorem responses_append (es fs : List Event) : responses (es ++ fs) = responses es + responses fs :=
  List.countP_append

/-- Any other event is no response. -/
theorem responses_snoc (es : List Event) {e : Event} (h : ∀ c, e ≠ .rsp c) : responses (es ++ [e]) = responses es := by
  cases e with
  | rsp c => exact absurd rfl (h c)
  | acq | rel | oe | pin | wait => exact responses_append es [_]

theorem answers_of_holdsSession {p : Phase} (h : holdsSession p = true) : answers p = 0 := by
  cases p <;> simp [holdsSession, answers] at h ⊢

/-- `t` follows `s`, in which the operation had given no response, and its phase tells those it has given since. -/
def Answers (s t : State) : Prop := responses t.trace = responses s.trace + answers t.phase

/-! ### The parts of an operation between its transmissions -/

theorem answers_respond (c : Status) (s : State) : Answers s (respond c s) := responses_append s.trace [.rsp c]

theorem answers_drainThen (c : Status) (n : Arg) (s : State) : Answers s (drainThen c n s) := by
  rcases drainThen_cases c n s with ⟨-, h⟩ | ⟨-, h⟩ <;> rw [h]
  · rfl
  · exact answers_respond c s

theorem answers_raise (c : Status) (s : State) : Answers s (raise c s) := by
  rcases raise_cases c s with ⟨-, -, h⟩ | ⟨-, h⟩ <;> rw [h]
  · rfl
  · exact answers_respond c s

theorem answers_transmit (v : Int) (d : Bool) (s : State) : Answers s (transmit v d s) := by
  rcases transmit_cases v d s with ⟨-, h⟩ | ⟨-, h⟩ <;> rw [h]
  · rfl
  · exact answers_raise ..

theorem answers_moveLoop (v : Int) (s : State) : Answers s (moveLoop v s) := by
  unfold moveLoop; split
  · exact answers_respond ..
  · exact answers_transmit ..

theorem answers_textLoop (s : State) : Answers s (textLoop s) := by
  unfold textLoop; split
  · exact answers_respond ..
  · rfl

theorem answers_drainWord {s : State} (hp : s.phase = .drain) : Answers s (drainWord s) := by
  unfold drainWord; split
  · exact answers_respond s.stat (s.setK 0#32)
  · simp [Answers, answers, hp]

theorem answers_afterInit (s : State) : Answers s (afterInit s) := by
  unfold afterInit; split
  · exact answers_transmit clrValue false (s.setK 2#32)
  · split
    · exact answers_transmit homeValue false (s.setK 1#32)
    · exact answers_respond .ok { s with initf := true }

theorem answers_afterTransmission (s : State) : Answers s (afterTransmission s) := by
  unfold afterTransmission; split
  · exact answers_afterInit s
  · exact answers_moveLoop curValue (s.setK (s.k - 1#32))
  · exact answers_moveLoop culValue (s.setK (s.k - 1#32))
  · exact answers_textLoop s
  · exact answers_respond ..

/-- The accepting edge of every request. -/
theorem answers_start (i : Instr) (s : State) : Answers s (start i s) := by
  cases i with
  | init => rfl
  | clr | home | fmt | disp | pos | tx =>
    exact guardOr_induct (P := Answers s) (answers_raise _ (s.latch _)) (answers_transmit _ _ (s.latch _))
  | cur n | cul n =>
    exact guardOr_induct (P := Answers s) (body := fun u => moveLoop _ (u.setK (moveCount n)))
      (answers_raise _ (s.latch _)) (answers_moveLoop _ ((s.latch _).setK _))
  | wrs len =>
    exact guardOr_induct (P := Answers s) (body := fun u => textLoop (u.setK (textCount len)))
      (answers_drainThen _ _ (s.latch _)) (answers_textLoop ((s.latch _).setK _))
  | chr cp =>
    show Answers s (if s.phase = .drain then drainWord s else textWord cp s)
    split
    · exact answers_drainWord ‹_›
    · exact answers_transmit cp true (s.setK (s.k - 1#32))

/-! ### The edges -/

theorem responses_pinWrite (ws : List (Role × Bool)) (s : State) :
    responses (pinWrite ws s).trace = responses s.trace := by
  unfold pinWrite; split
  · exact responses_snoc s.trace (by simp)
  · rfl

theorem responses_enableOutputs (s : State) : responses (enableOutputs s).trace = responses s.trace := by
  unfold enableOutputs; split
  · exact responses_snoc s.trace (by simp)
  · rfl

/-- Up to the release no response is given. -/
theorem responses_beforeRelease (x : PortIn) {s : State} (hs : beforeRelease s.phase = true) :
    responses (advance x s).trace = responses s.trace := by
  unfold advance
  split <;> rename_i hp <;> rw [hp] at hs <;> simp only [beforeRelease, Bool.false_eq_true] at hs
  all_goals
    simp only [edgeCfgoe, edgeCfglow, edgeSelect, edgeDrive, edgeSetup, edgeHigh, edgeFall, edgeReset]
    split <;> simp [responses_pinWrite, responses_enableOutputs, responses_snoc]

/-- The answer to the session's request. -/
theorem answers_edgeAcq (x : PortIn) {s : State} (hp : s.phase = .acq) : Answers s (edgeAcq x s) := by
  have hacq : ∀ a, responses (s.trace ++ [.acq a]) = responses s.trace := fun a => responses_snoc _ (by simp)
  unfold edgeAcq; split
  · simp [Answers, hp, answers]
  · exact (answers_raise .deviceUnavailable (s.emit (.acq .fail))).trans (congrArg (· + _) (hacq .fail))
  · cases hc : configuring s <;> exact hacq .ok

/-- The answer to its release. -/
theorem answers_edgeRel (x : PortIn) {s : State} (hp : s.phase = .rel) : Answers s (edgeRel x s) := by
  have hrel : ∀ a, responses (s.trace ++ [.rel a]) = responses s.trace := fun a => responses_snoc _ (by simp)
  unfold edgeRel; split
  · simp [Answers, hp, answers]
  · exact (answers_raise .deviceUnavailable { s with ses := false, trace := s.trace ++ [.rel .fail] }).trans
      (congrArg (· + _) (hrel .fail))
  · exact (answers_afterTransmission { s with ses := false, trace := s.trace ++ [.rel .ok] }).trans
      (congrArg (· + _) (hrel .ok))

/-- The host takes the response, or does not: it has been counted. -/
theorem Answers.edgeRsp {s u : State} (h : Answers s u) (x : PortIn) (hp : u.phase = .rsp) :
    Answers s (edgeRsp x u) := by
  unfold Machine.edgeRsp; split
  · simpa [Answers, answers, hp] using h
  · exact h

/-- While no response has been given, what follows is counted from here. -/
theorem Answers.trans {s u t : State} (h : Answers s u) (hu : answers u.phase = 0) (g : Answers u t) :
    Answers s t := by
  simp only [Answers, hu, add_zero] at h g ⊢
  rw [g, h]

/-- Every edge of a busy phase. -/
theorem Answers.advance {s u : State} (h : Answers s u) (x : PortIn) (hw : takesWord u.phase = false) :
    Answers s (advance x u) := by
  rcases advance_cases x u with hb | ⟨hw', -⟩ | ⟨hp, he⟩ | ⟨hp, he⟩ | ⟨hp, he⟩
  · obtain ⟨-, -, hsession, -⟩ := advance_beforeRelease x hb
    have hu : answers u.phase = 0 := by cases hp : u.phase <;> simp [hp, beforeRelease, answers] at hb ⊢
    refine h.trans hu ?_
    rw [Answers, responses_beforeRelease x hb, answers_of_holdsSession hsession, add_zero]
  · simp [hw] at hw'
  all_goals rw [he]
  · exact h.trans (by rw [hp]; rfl) (answers_edgeAcq x hp)
  · exact h.trans (by rw [hp]; rfl) (answers_edgeRel x hp)
  · exact h.edgeRsp x hp

theorem answers_exec {i : Instr} {s t : State} (hr : NoReset s) (hexec : exec i s = .next t) : Answers s t :=
  exec_induct hexec hr (fun _ _ h => h) (fun x _ hw h => h.advance x hw) (answers_start i s)

/-- Settles O23: the phase an operation is left in tells how many responses it has given. -/
theorem oneResponsePerHeader : Obligations.OneResponsePerHeader := by
  intro i s t _ hr hexec
  have h := answers_exec hr hexec
  refine ⟨fun hp => ?_, fun hidle hrsp => ?_⟩
  · rcases hp with hp | hp <;> rw [h, hp] <;> rfl
  · have h0 : answers t.phase = 0 := by cases hp : t.phase <;> simp_all [answers]
    rw [h, h0, add_zero]

end Sys2Proof.Machine

/-! ## O48: a whole string

One step per word: the header, each character's transmission, and after the last the response. -/

namespace Sys2Proof.Machine

/-- A step that answers a state, and the run from there. -/
theorem run_succ {M : Host.Core} {n : Nat} {s u : M.State} (h : M.step s = .next u) : M.run (n + 1) s = M.run n u := by
  simp [Host.Core.run, h]

theorem fitsArg_of_byte {c : Int} (h : inByteRange c = true) : fitsArg c = true := by
  simp [inByteRange, fitsArg] at h ⊢
  omega

/-- A payload word's code point comes back from its word (R51). -/
theorem decodePayload_encode_chr {c : Int} (h : fitsArg c = true) : decodePayload (encode (.chr c)) = .chr c := by
  simp [decodePayload, encode, encodeArg, sext32_ofInt h]

@[simp] theorem prompt_offerPrompt (w : ReqWord) : prompt (offerPrompt w) = true := by
  simp [prompt_iff, offerPrompt]

/-- The state in which the transmission of a character of a string has been answered, with prompt agents. -/
def State.charSent (c : Int) (s : State) : State :=
  { s with
    k := s.k - 1#32, val := byteOf c, dm := true, phase := .rel, tmr := 0, waited := 0
    trace := s.trace ++ sent (byteOf c) true (nSetup s.cfg) (nPulse s.cfg) .ok
    delivered := s.delivered ++ [sentFrame (byteOf c) true] }

/-- A character in range asks for the session. -/
theorem start_chr_inRange {c : Int} {s : State} (hc : inByteRange c = true) (hp : s.phase = .payload) :
    start (.chr c) s = { s with k := s.k - 1#32, val := byteOf c, dm := true, phase := .acq } := by
  show (if s.phase = .drain then drainWord s else textWord c s) = _
  rw [if_neg (by simp [hp]), textWord, transmit_inRange _ _ hc]
  rfl

/-- A character in range, taken in `P_PAYLOAD`: its transmission, then the loop head of `WRS` (R98). -/
theorem settleFrom_chr {c : Int} {s : State} (ws rest : List PortIn) (hc : inByteRange c = true)
    (hs : InText s) (hl : ws.length = transmissionCycles s.cfg) (hp : ∀ x ∈ ws, prompt x = true) :
    settleFrom (ws ++ rest) (start (.chr c) s) = settleFrom rest (textLoop (s.charSent c)) := by
  obtain ⟨hph, hses, hz, hb, -⟩ := hs
  rw [start_chr_inRange hc hph]
  exact (prompt_transmission ws rest { s with k := s.k - 1#32, val := byteOf c, dm := true, phase := .acq }
    hl hp rfl hses hz (configuring_of_inBurst hb)).trans
    (congrArg _ (afterTransmission_text (s := s.charSent c) hb))

/-- The step at which a character is offered, and prompt agents after it. -/
theorem step_chr {c : Int} {s : State} {ws rest : List PortIn} (hu : usableConfig s.cfg = true)
    (hc : inByteRange c = true) (hs : InText s) (hl : ws.length = transmissionCycles s.cfg)
    (hp : ∀ x ∈ ws, prompt x = true) (hi : s.inputs = offerPrompt (encode (.chr c)) :: (ws ++ rest)) :
    step s = .next (settleFrom rest (textLoop ((s.withInputs (ws ++ rest)).charSent c))) := by
  have hph : s.phase = .payload := hs.1
  have hread : readWord s.phase (encode (.chr c)) = .ok (.chr c) := by
    simp [readWord, hph, decodePayload_encode_chr (fitsArg_of_byte hc)]
  rw [step_of_word hu hi rfl rfl (by rw [hph]; rfl) hread, exec_eq_settle_start, settle, (quiet_start ..).inputs]
  exact congrArg _ (settleFrom_chr ws rest hc hs hl hp)

/-- The header of a non-empty string waits for its first character (R98). -/
theorem step_wrs {len : Int} {s : State} {rest : List PortIn} (hu : usableConfig s.cfg = true) (hp : s.phase = .idle)
    (hinit : s.initf = true) (hk : textCount len ≠ 0#32) (hd : decodeHeader (encode (.wrs len)) = .ok (.wrs len))
    (hi : s.inputs = offerPrompt (encode (.wrs len)) :: rest) :
    step s = .next { s with reqr := encode (.wrs len), k := textCount len, phase := .payload, inputs := rest } := by
  have hstart : start (.wrs len) (s.withInputs rest) =
      { s with reqr := encode (.wrs len), k := textCount len, phase := .payload, inputs := rest } := by
    rw [start, startWrs, guardOr_on (s := (s.withInputs rest).latch _) hinit, textLoop, State.setK_k, if_neg hk]
    rfl
  rw [stepRunsTheDecodedHeader s _ _ _ hu hi rfl rfl hp hd, exec_eq_settle_start]
  rw [show { s with inputs := rest } = s.withInputs rest from rfl, hstart, settle, settleFrom_ready _ rfl]

/-- With words left the loop head of `WRS` waits for the next. -/
theorem settleFrom_textLoop_more {s : State} (rest : List PortIn) (hk : s.k ≠ 0#32) :
    settleFrom rest (textLoop s) = { s with phase := .payload, inputs := rest } := by
  rw [textLoop, if_neg hk, settleFrom_ready _ rfl]
  rfl

/-- With none left it answers `OK`, which a prompt host takes at once. -/
theorem settleFrom_textLoop_last {s : State} {x : PortIn} (rest : List PortIn) (hk : s.k = 0#32)
    (hx : prompt x = true) :
    settleFrom (x :: rest) (textLoop s) = { respond .ok s with phase := .idle, inputs := rest } := by
  rw [textLoop, if_pos hk, prompt_rsp (x :: rest) (respond .ok s) (by simp) (by simpa using hx) rfl]
  rfl

/-- The samples of a host that offers characters in turn, each followed by those of its transmission. -/
def charSamples (cfg : Config) (cps : List Int) : List PortIn :=
  cps.flatMap fun c => offerPrompt (encode (.chr c)) :: List.replicate (transmissionCycles cfg) (offerPrompt 0#48)

theorem charSamples_cons (cfg : Config) (c : Int) (cs : List Int) : charSamples cfg (c :: cs) =
    offerPrompt (encode (.chr c)) ::
      (List.replicate (transmissionCycles cfg) (offerPrompt 0#48) ++ charSamples cfg cs) := by
  simp [charSamples]

/-- A count that is not 0 in `K`. -/
theorem ofNat_ne_zero {n : Nat} (h0 : n ≠ 0) (hn : n ≤ 2147483647) : BitVec.ofNat 32 n ≠ 0#32 := by
  intro h
  have := congrArg BitVec.toNat h
  simp at this
  omega

/-- The characters of a string still to come, from a host that offers them in turn and then takes the response. -/
structure Offered (cps : List Int) (rest : List PortIn) (s : State) : Prop where
  usable : usableConfig s.cfg = true
  initf : s.initf = true
  phase : s.phase = .payload
  session : s.ses = false
  pins : s.pin = 0x000#11
  burst : inBurst s = true
  count : s.k = BitVec.ofNat 32 cps.length
  inputs : s.inputs = charSamples s.cfg cps ++ offerPrompt 0#48 :: rest

/-- What a character's step leaves, up to the samples to come, is the loop head's choice. -/
theorem Offered.step_cons {c : Int} {cs : List Int} {rest : List PortIn} {s : State} (h : Offered (c :: cs) rest s)
    (hc : inByteRange c = true) (hlen : (c :: cs).length ≤ 2147483647) :
    ∃ l, step s = .next (settleFrom (charSamples s.cfg cs ++ offerPrompt 0#48 :: rest)
      (textLoop ((s.withInputs l).charSent c))) ∧ s.k - 1#32 = BitVec.ofNat 32 cs.length := by
  have htext : InText s := ⟨h.phase, h.session, h.pins, h.burst, h.count ▸ ofNat_ne_zero (by simp) hlen⟩
  refine ⟨_, step_chr h.usable hc htext (List.length_replicate (a := offerPrompt 0#48)) (by simp) ?_, ?_⟩
  · simp [h.inputs, charSamples_cons]
  · rw [h.count, List.length_cons, BitVec.ofNat_add, BitVec.add_sub_cancel]

/-- One character of a string is sent, and the others are waited for. -/
theorem Offered.step_more {c : Int} {cs : List Int} {rest : List PortIn} {s : State} (h : Offered (c :: cs) rest s)
    (hc : inByteRange c = true) (hlen : (c :: cs).length ≤ 2147483647) (hcs : cs ≠ []) :
    ∃ u, step s = .next u ∧ Offered cs rest u ∧ u.delivered = s.delivered ++ [sentFrame (byteOf c) true] := by
  obtain ⟨l, hstep, hk⟩ := h.step_cons hc hlen
  have hne : s.k - 1#32 ≠ 0#32 := hk ▸ ofNat_ne_zero (by simpa using hcs) (Nat.le_of_succ_le hlen)
  rw [settleFrom_textLoop_more (s := (s.withInputs l).charSent c) _ hne] at hstep
  exact ⟨_, hstep, ⟨h.usable, h.initf, rfl, h.session, h.pins, h.burst, hk, rfl⟩, rfl⟩

/-- The last character of a string is sent, and the string answered. -/
theorem Offered.step_last {c : Int} {rest : List PortIn} {s : State} (h : Offered [c] rest s)
    (hc : inByteRange c = true) :
    ∃ t, step s = .next t ∧ t.phase = .idle ∧ t.stat = .ok ∧ t.inputs = rest ∧ t.initf = true ∧
      t.delivered = s.delivered ++ [sentFrame (byteOf c) true] := by
  obtain ⟨l, hstep, hk⟩ := h.step_cons hc (by simp)
  rw [charSamples, List.flatMap_nil, List.nil_append,
    settleFrom_textLoop_last (s := (s.withInputs l).charSent c) rest hk (prompt_offerPrompt _)] at hstep
  exact ⟨_, hstep, rfl, rfl, rfl, h.initf, rfl⟩

/-- The run of a string's characters, one step each. -/
theorem Offered.run {rest : List PortIn} : ∀ {cps : List Int} {s : State}, Offered cps rest s → cps ≠ [] →
    cps.length ≤ 2147483647 → (∀ c ∈ cps, inByteRange c = true) →
    ∃ t, Sys2Proof.core.run cps.length s = .next t ∧ t.phase = .idle ∧ t.stat = .ok ∧ t.inputs = rest ∧
      t.initf = true ∧ t.delivered = s.delivered ++ cps.map fun c => sentFrame (byteOf c) true
  | [], _, _, hne, _, _ => absurd rfl hne
  | [c], s, h, _, _, hc => by
    obtain ⟨t, hstep, ht⟩ := h.step_last (hc c List.mem_cons_self)
    exact ⟨t, run_succ (M := Sys2Proof.core) hstep, ht⟩
  | c :: d :: cs, s, h, _, hlen, hc => by
    obtain ⟨u, hstep, hu, hdl⟩ := h.step_more (hc c List.mem_cons_self) hlen (by simp)
    obtain ⟨t, hrun, hph, hstat, hin, hi, htdl⟩ :=
      hu.run (by simp) (Nat.le_of_succ_le hlen) fun e he => hc e (List.mem_cons_of_mem c he)
    exact ⟨t, (run_succ (M := Sys2Proof.core) hstep).trans hrun, hph, hstat, hin, hi, by simp [htdl, hdl]⟩

/-- Settles O48: the header's step, and then one for each character. -/
theorem wholeStringIsDelivered : Obligations.WholeStringIsDelivered := by
  intro cps s rest hne hlen hc ⟨hp, hses, hz⟩ hinit hu hi
  have hd : decodeHeader (encode (.wrs cps.length)) = .ok (.wrs cps.length) :=
    decode_encode_wrs (by simp [fitsArg]; omega) (by omega)
  have hk : textCount cps.length ≠ 0#32 := ofNat_ne_zero (by simpa using hne) hlen
  have hstep := step_wrs hu hp hinit hk hd hi
  obtain ⟨t, hrun, ht⟩ := Offered.run (cps := cps) (rest := rest)
    (s := { s with reqr := encode (.wrs cps.length), k := textCount cps.length, phase := .payload,
                   inputs := charSamples s.cfg cps ++ offerPrompt 0#48 :: rest })
    ⟨hu, hinit, rfl, hses, hz, by simp [inBurst, hd], rfl, rfl⟩ hne hlen
    fun c h => by simpa [inByteRange] using hc c h
  exact ⟨t, (run_succ (M := Sys2Proof.core) hstep).trans hrun, ht⟩

end Sys2Proof.Machine

/-! ## O1, O2, O4, O5, O6: words

Each operation's row of the decoder (R58) is an equation; encoding fills the row's fields, and reading them gives
the operands back. -/

namespace Sys2Proof

/-! ### The rows of R58 -/

section
variable {w : ReqWord}

theorem decodeHeader_init (h : opField w = 0x01#8) :
    decodeHeader w = flagsOnly 0x00#8 (flField w) (argField w) .init := by simp [decodeHeader, h]

theorem decodeHeader_clr (h : opField w = 0x02#8) :
    decodeHeader w = flagsOnly 0x00#8 (flField w) (argField w) .clr := by simp [decodeHeader, h]

theorem decodeHeader_home (h : opField w = 0x03#8) :
    decodeHeader w = flagsOnly 0x00#8 (flField w) (argField w) .home := by simp [decodeHeader, h]

theorem decodeHeader_fmt (h : opField w = 0x04#8) : decodeHeader w =
    flagsOnly 0x0C#8 (flField w) (argField w) (.fmt ((flField w).getLsbD 3) ((flField w).getLsbD 2)) := by
  simp [decodeHeader, h]

theorem decodeHeader_disp (h : opField w = 0x05#8) : decodeHeader w =
    flagsOnly 0x07#8 (flField w) (argField w)
      (.disp ((flField w).getLsbD 2) ((flField w).getLsbD 1) ((flField w).getLsbD 0)) := by
  simp [decodeHeader, h]

theorem decodeHeader_cur (h : opField w = 0x06#8) :
    decodeHeader w = withOperand 0x00#8 (flField w) (.cur (sext32 (argField w))) := by simp [decodeHeader, h]

theorem decodeHeader_cul (h : opField w = 0x07#8) :
    decodeHeader w = withOperand 0x00#8 (flField w) (.cul (sext32 (argField w))) := by simp [decodeHeader, h]

theorem decodeHeader_pos (h : opField w = 0x08#8) : decodeHeader w =
    withOperand 0x40#8 (flField w) (.pos (sext32 (argField w)) ((flField w).getLsbD 6)) := by
  simp [decodeHeader, h]

theorem decodeHeader_wrs (h : opField w = 0x09#8) :
    decodeHeader w = withLength (flField w) (sext32 (argField w)) := by simp [decodeHeader, h]

theorem decodeHeader_tx (h : opField w = 0x0A#8) : decodeHeader w =
    withOperand 0x01#8 (flField w) (.tx (sext32 (argField w)) ((flField w).getLsbD 0)) := by
  simp [decodeHeader, h]

/-- Clause (a) of R55. -/
theorem decodeHeader_unknown (h : opField w = 0#8 ∨ 0x0B#8 ≤ opField w) : decodeHeader w = .error .operation := by
  have hne : ∀ k : Byte, 0x01#8 ≤ k → k ≤ 0x0A#8 → opField w ≠ k := by bv_omega
  simp [decodeHeader, hne]

end

/-! ### The operands in `FL` (R50) -/

theorem encodeFlags_fmt (a b : Bool) : encodeFlags (.fmt a b) &&& ~~~0x0C#8 = 0#8 ∧
    (encodeFlags (.fmt a b)).getLsbD 3 = a ∧ (encodeFlags (.fmt a b)).getLsbD 2 = b := by
  revert a b; decide

theorem encodeFlags_disp (a b c : Bool) : encodeFlags (.disp a b c) &&& ~~~0x07#8 = 0#8 ∧
    (encodeFlags (.disp a b c)).getLsbD 2 = a ∧ (encodeFlags (.disp a b c)).getLsbD 1 = b ∧
      (encodeFlags (.disp a b c)).getLsbD 0 = c := by
  revert a b c; decide

theorem encodeFlags_pos (n : Int) (b : Bool) : encodeFlags (.pos n b) &&& ~~~0x40#8 = 0#8 ∧
    (encodeFlags (.pos n b)).getLsbD 6 = b := by
  simp only [encodeFlags]; revert b; decide

theorem encodeFlags_tx (n : Int) (b : Bool) : encodeFlags (.tx n b) &&& ~~~0x01#8 = 0#8 ∧
    (encodeFlags (.tx n b)).getLsbD 0 = b := by
  simp only [encodeFlags]; revert b; decide

/-- Flags within an operation's mask are those of the operands they hold. -/
theorem encodeFlags_of_fmt {fl : Byte} : fl &&& ~~~0x0C#8 = 0#8 →
    encodeFlags (.fmt (fl.getLsbD 3) (fl.getLsbD 2)) = fl := by
  revert fl; decide

theorem encodeFlags_of_disp {fl : Byte} : fl &&& ~~~0x07#8 = 0#8 →
    encodeFlags (.disp (fl.getLsbD 2) (fl.getLsbD 1) (fl.getLsbD 0)) = fl := by
  revert fl; decide

theorem encodeFlags_of_pos {fl : Byte} (n : Int) : fl &&& ~~~0x40#8 = 0#8 →
    encodeFlags (.pos n (fl.getLsbD 6)) = fl := by
  simp only [encodeFlags]; revert fl; decide

theorem encodeFlags_of_tx {fl : Byte} (n : Int) : fl &&& ~~~0x01#8 = 0#8 →
    encodeFlags (.tx n (fl.getLsbD 0)) = fl := by
  simp only [encodeFlags]; revert fl; decide

/-! ### Headers -/

@[simp] theorem opField_encode (i : Instr) : opField (encode i) = encodeOp i := opField_header ..

@[simp] theorem flField_encode (i : Instr) : flField (encode i) = encodeFlags i := flField_header ..

@[simp] theorem argField_encode (i : Instr) : argField (encode i) = encodeArg i := argField_header ..

/-- Settles O1: the row of the request's code, whose mask and operands are those the encoder fills. -/
theorem decodeOfEncodeIsTheRequest : Obligations.DecodeOfEncodeIsTheRequest := by
  intro i hwf hhead
  cases i with
  | init | clr | home => rfl
  | fmt a b => simpa [decodeHeader_fmt, encodeOp, encodeArg, flagsOnly_ok] using encodeFlags_fmt a b
  | disp a b c => simpa [decodeHeader_disp, encodeOp, encodeArg, flagsOnly_ok] using encodeFlags_disp a b c
  | cur n => simp [decodeHeader_cur, encodeOp, encodeArg, withOperand_ok, encodeFlags, sext32_ofInt hwf]
  | cul n => simp [decodeHeader_cul, encodeOp, encodeArg, withOperand_ok, encodeFlags, sext32_ofInt hwf]
  | pos n b =>
    simpa [decodeHeader_pos, encodeOp, encodeArg, withOperand_ok, sext32_ofInt hwf] using encodeFlags_pos n b
  | wrs len =>
    simp only [Instr.wellFormed, Bool.and_eq_true, decide_eq_true_eq] at hwf
    exact Machine.decode_encode_wrs hwf.1 hwf.2
  | tx n b =>
    simpa [decodeHeader_tx, encodeOp, encodeArg, withOperand_ok, sext32_ofInt hwf] using encodeFlags_tx n b
  | chr cp => cases hhead

/-- A word with a request's fields is the request's word. -/
theorem encode_eq_of_fields {w : ReqWord} {i : Instr} (hop : opField w = encodeOp i) (hfl : encodeFlags i = flField w)
    (harg : encodeArg i = argField w) : encode i = w := by
  rw [encode, ← hop, hfl, harg, header_fields]

/-- Settles O2: the fields a request is decoded from are those it is encoded to. -/
theorem encodeOfDecodeIsTheWord : Obligations.EncodeOfDecodeIsTheWord := by
  intro w i hd
  obtain ⟨hop, hhead, hrow⟩ := decodeHeader_ok hd
  suffices h : encodeFlags i = flField w ∧ encodeArg i = argField w ∧ i.wellFormed = true from
    ⟨encode_eq_of_fields hop h.1 h.2.1, h.2.2, hhead⟩
  cases i with
  | init | clr | home => exact ⟨hrow.1.symm, hrow.2.symm, rfl⟩
  | fmt a b =>
    obtain ⟨hmask, harg, rfl, rfl⟩ := hrow
    exact ⟨encodeFlags_of_fmt hmask, harg.symm, rfl⟩
  | disp a b c =>
    obtain ⟨hmask, harg, rfl, rfl, rfl⟩ := hrow
    exact ⟨encodeFlags_of_disp hmask, harg.symm, rfl⟩
  | cur n | cul n =>
    obtain ⟨hfl, rfl⟩ := hrow
    exact ⟨hfl.symm, ofInt_sext32 _, fitsArg_sext32 _⟩
  | pos n b =>
    obtain ⟨hmask, rfl, rfl⟩ := hrow
    exact ⟨encodeFlags_of_pos _ hmask, ofInt_sext32 _, fitsArg_sext32 _⟩
  | wrs n =>
    obtain ⟨hfl, rfl, hn⟩ := hrow
    exact ⟨hfl.symm, ofInt_sext32 _, by simp [Instr.wellFormed, fitsArg_sext32, hn]⟩
  | tx n b =>
    obtain ⟨hmask, rfl, rfl⟩ := hrow
    exact ⟨encodeFlags_of_tx _ hmask, ofInt_sext32 _, fitsArg_sext32 _⟩
  | chr cp => exact hrow.elim

/-- Settles O5: the decoder run on each word. -/
theorem wordsWrittenByHandDecode : Obligations.WordsWrittenByHandDecode := by
  unfold Obligations.WordsWrittenByHandDecode
  decide

/-! ### Payload words and the assembler -/

/-- Bits 31:0 of a word, whatever stands above them (R51). -/
@[simp] theorem argField_append (hi : BitVec 16) (cp : Arg) : argField (hi ++ cp) = cp :=
  BitVec.extractLsb'_append_eq_right

/-- Settles O4: the reading of a payload word looks at bits 31:0, and at the phase before that. -/
theorem payloadWordsAreReadByTheirLowBits : Obligations.PayloadWordsAreReadByTheirLowBits := by
  have hlow : ∀ (hi : BitVec 16) (cp : Arg), decodePayload (hi ++ cp) = .chr cp.toInt := fun hi cp => by
    rw [decodePayload, argField_append, sext32]
  refine ⟨fun hi hi' cp => ⟨hlow hi cp, (hlow hi' cp).trans (hlow hi cp).symm⟩, fun p w hp => ?_,
    fun cp h => Machine.decodePayload_encode_chr h⟩
  rcases hp with rfl | rfl <;> rfl

/-- A string fits its words when its length and its characters do (R60). -/
theorem wellFormed_expandLine_wrs {cps : List Int} (hlen : cps.length ≤ 2147483647)
    (hc : ∀ c ∈ cps, fitsArg c = true) : (expandLine (.wrs cps)).all Instr.wellFormed = true := by
  have hfits : fitsArg cps.length = true := by simp [fitsArg]; omega
  simpa [expandLine, Instr.wellFormed, hfits] using hc

/-- Settles O6: the abbreviations expand to the same requests, and a string to its header and characters. -/
theorem pseudoInstructionsAreAbbreviations : Obligations.PseudoInstructionsAreAbbreviations := by
  refine ⟨fun _ => rfl, fun _ => rfl, fun _ => rfl, fun cps hlen hc => ?_⟩
  have hhead : encode (.wrs cps.length) = header 0x09#8 0#8 (BitVec.ofNat 32 cps.length) := by
    simp [encode, encodeOp, encodeFlags, encodeArg]
  rw [assemble, if_pos (wellFormed_expandLine_wrs hlen hc), expandLine, List.map_cons, hhead, List.map_map]
  rfl

end Sys2Proof

/-! ## O3, O8, O20, O42: one edge, by the word it takes and the ports it reads -/

namespace Sys2Proof

/-! ### The illegal headers (R55) -/

theorem flagsOnly_error {mask fl : Byte} {arg : Arg} {i : Instr} :
    (∃ e, flagsOnly mask fl arg i = .error e) ↔ fl &&& ~~~mask ≠ 0#8 ∨ arg ≠ 0#32 := by
  unfold flagsOnly
  by_cases hfl : fl &&& ~~~mask = 0#8 <;> by_cases harg : arg = 0#32 <;> simp [hfl, harg]

theorem withOperand_error {mask fl : Byte} {i : Instr} :
    (∃ e, withOperand mask fl i = .error e) ↔ fl &&& ~~~mask ≠ 0#8 := by
  unfold withOperand
  by_cases hfl : fl &&& ~~~mask = 0#8 <;> simp [hfl]

theorem withLength_error {fl : Byte} {len : Int} :
    (∃ e, withLength fl len = .error e) ↔ fl ≠ 0#8 ∨ len < 0 := by
  unfold withLength
  by_cases hfl : fl = 0#8 <;> by_cases hlen : len < 0 <;> simp [hfl, hlen]

/-- The ten codes of R48, and the others. -/
theorem op_cases (op : Byte) : op = 0x01#8 ∨ op = 0x02#8 ∨ op = 0x03#8 ∨ op = 0x04#8 ∨ op = 0x05#8 ∨ op = 0x06#8 ∨
    op = 0x07#8 ∨ op = 0x08#8 ∨ op = 0x09#8 ∨ op = 0x0A#8 ∨ (op = 0#8 ∨ 0x0B#8 ≤ op) := by
  bv_omega

end Sys2Proof

namespace Sys2Proof.Machine

/-- An illegal header accepted in `P_IDLE` (R118). -/
theorem clockEdge_illegal {x : PortIn} {s : State} {e : Illegal} (hr : x.rst = false) (hv : x.reqValid = true)
    (hp : s.phase = .idle) (hd : decodeHeader x.reqData = .error e) : clockEdge x s = badRequest s :=
  clockEdge_eq_badRequest hr (by rw [hp]; rfl) hv (by rw [readWord, if_pos hp, hd])

/-- Settles O3: row by row the clauses of R55 that the code leaves; and the edge that answers an illegal header. -/
theorem illegalHeadersAnswerBadRequest : Obligations.IllegalHeadersAnswerBadRequest := by
  refine ⟨fun w => ?_, fun s x xs e hc hi hr hv hp hd => ?_⟩
  · have hall : flField w &&& 255#8 = flField w := BitVec.and_allOnes
    rcases op_cases (opField w) with h | h | h | h | h | h | h | h | h | h | h
    · rw [decodeHeader_init h, flagsOnly_error]; simp [h]
    · rw [decodeHeader_clr h, flagsOnly_error]; simp [h]
    · rw [decodeHeader_home h, flagsOnly_error]; simp [h]
    · rw [decodeHeader_fmt h, flagsOnly_error]; simp [h]
    · rw [decodeHeader_disp h, flagsOnly_error]; simp [h]
    · rw [decodeHeader_cur h, withOperand_error]; simp [h]
    · rw [decodeHeader_cul h, withOperand_error]; simp [h]
    · rw [decodeHeader_pos h, withOperand_error]; simp [h]
    · rw [decodeHeader_wrs h, withLength_error]; simp [h, hall, sext32]
    · rw [decodeHeader_tx h, withOperand_error]; simp [h]
    · exact iff_of_true ⟨_, decodeHeader_unknown h⟩ (.inl h)
  · have hedge := clockEdge_illegal (s := s.withInputs xs) hr hv hp hd
    exact ⟨hedge, (step_cons hc hi).trans (by rw [hedge]; rfl)⟩

/-! ### Payload words -/

/-- Settles O8: outside `P_IDLE` a word is read as a payload word. -/
theorem stepRunsThePayloadWord : Obligations.StepRunsThePayloadWord := by
  intro s x xs hc hi hr hv hp
  refine step_of_word hc hi hr hv ?_ ?_ <;> rcases hp with hp | hp <;> rw [hp] <;> rfl

/-- Settles O42: the drained word is counted, and after the last a prompt host takes the response. -/
theorem drainedWordHasNoEffect : Obligations.DrainedWordHasNoEffect := by
  intro c s hp
  have hstart : start (.chr c) s = drainWord s := if_pos hp
  rw [exec_eq_settle_start, hstart, drainWord]
  refine ⟨fun hk => ?_, fun hk hpr => ?_⟩
  · have hne : s.k - 1#32 ≠ 0#32 := by bv_omega
    rw [if_neg hne, settle, settleFrom_ready _ (by simp [hp, takesWord])]
    rfl
  · rw [if_pos (by simp [hk]), settle, respond_inputs, State.setK_inputs,
      prompt_rsp s.inputs (respond s.stat (s.setK 0#32)) hpr.1 hpr.2 rfl]
    rfl

/-! ### The ports -/

/-- The sequencer reads `linger`, the session's answers where it waits for one, and `rsp_ready` in `P_RSP`. -/
theorem advance_congr {x y : PortIn} {s : State} (hl : x.linger = y.linger)
    (hrsp : s.phase = .rsp → x.rspReady = y.rspReady)
    (hses : s.phase = .acq ∨ s.phase = .rel → x.gpio = y.gpio) : advance x s = advance y s := by
  cases hp : s.phase with
  | idle | payload | drain => simp [advance, hp]
  | acq => simp [advance, hp, edgeAcq, hses (.inl hp)]
  | rel => simp [advance, hp, edgeRel, hses (.inr hp)]
  | rsp => simp [advance, hp, edgeRsp, hrsp hp]
  | setup => simp [advance, hp, edgeSetup, waitOver, hl]
  | high => simp [advance, hp, edgeHigh, waitOver, hl]
  | cfgoe => simp [advance, hp, edgeCfgoe, hl]
  | cfglow => simp [advance, hp, edgeCfglow, hl]
  | select => simp [advance, hp, edgeSelect, hl]
  | drive => simp [advance, hp, edgeDrive, hl]
  | fall => simp [advance, hp, edgeFall, hl]
  | reset => simp [advance, hp, edgeReset, hl]

/-- Settles O20: the request channel is read where a word is taken, and the other ports by the sequencer. -/
theorem portsAreReadOnlyInTheirPhases : Obligations.PortsAreReadOnlyInTheirPhases := by
  intro x y s hrst hl hreq hrsp hses
  unfold clockEdge
  rw [hrst]
  by_cases hw : takesWord s.phase = true
  · obtain ⟨hvalid, hdata⟩ := hreq hw
    rw [hvalid, hdata, advance_congr hl hrsp hses]
  · rw [if_neg hw, if_neg hw, advance_congr hl hrsp hses]

end Sys2Proof.Machine

/-! ## O32: the control bytes -/

namespace Sys2Proof.Machine

/-- The value of `POS` for an operand that is not negative: an OR of natural numbers. -/
theorem posValue_natCast (n : Nat) (b : Bool) :
    posValue n b = (((0x80 ||| flagValue b 0x40) ||| n : Nat) : Int) := rfl

/-- An OR of two bytes is a byte (R97). -/
theorem posValue_inRange {col : Int} (b : Bool) (h : inByteRange col = true) :
    inByteRange (posValue col b) = true := by
  simp only [inByteRange, Bool.and_eq_true, decide_eq_true_eq] at h
  lift col to Nat using h.1
  have hflags : (0x80 ||| flagValue b 0x40) < 2 ^ 8 := by cases b <;> decide
  have hor := Nat.or_lt_two_pow hflags (show col < 2 ^ 8 by omega)
  rw [posValue_natCast]
  simp only [inByteRange, Bool.and_eq_true, decide_eq_true_eq]
  omega

theorem inByteRange_posValue (col : Int) (b : Bool) : inByteRange (posValue col b) = inByteRange col := by
  cases h : inByteRange col with
  | true => exact posValue_inRange b h
  | false => exact posValue_outOfRange b h

/-- The byte of an integer in range is that integer. -/
theorem ofNat_toNat_byteOf {n : Int} (h : inByteRange n = true) : Int.ofNat (byteOf n).toNat = n := by
  simp only [inByteRange, Bool.and_eq_true, decide_eq_true_eq] at h
  simp [byteOf]
  omega

/-- The OR of `POS`, as bytes (R97, R100). -/
theorem byteOf_posValue {col : Int} (b : Bool) (h : inByteRange col = true) :
    byteOf (posValue col b) = 0x80#8 ||| (if b then 0x40#8 else 0#8) ||| BitVec.ofInt 8 col := by
  simp only [inByteRange, Bool.and_eq_true, decide_eq_true_eq] at h
  lift col to Nat using h.1
  rw [posValue_natCast]
  cases b <;> simp [byteOf, flagValue, BitVec.ofNat_or]

/-- Settles O32: each composed value is in range, and its byte is that of the tables. -/
theorem composedValuesAreTheControlBytes : Obligations.ComposedValuesAreTheControlBytes := by
  refine ⟨inByteRange_posValue, fun i v d h => ?_, rfl, rfl⟩
  cases i with
  | clr | home => cases h; rfl
  | fmt t f => cases h; revert t f; decide
  | disp o c b => cases h; revert o c b; decide
  | pos col b =>
    simp only [singleByte, Option.ite_none_right_eq_some, Option.some.injEq, Prod.mk.injEq] at h
    obtain ⟨hcol, rfl, -⟩ := h
    have hr : inByteRange col = true := by simpa [inByteRange] using hcol
    show posValue col b = _
    rw [← byteOf_posValue b hr, ofNat_toNat_byteOf (posValue_inRange b hr)]
  | tx value m =>
    simp only [singleByte, Option.ite_none_right_eq_some, Option.some.injEq, Prod.mk.injEq] at h
    obtain ⟨hv, rfl, -⟩ := h
    exact (ofNat_toNat_byteOf (by simpa [inByteRange] using hv)).symm
  | init | cur | cul | wrs | chr => cases h

end Sys2Proof.Machine

/-! ## O49: the bytes of the operations other than `TX`

A byte is chosen where `transmit` is called, at acceptance or after a transmission, and every call but that of `TX`
passes one of R56. From there to E's fall `VAL` and `DM` stand. -/

namespace Sys2Proof.Machine

/-- The bytes of R56. -/
def EncoderByte (v : Byte) : Prop :=
  v ∈ [0x01#8, 0x02#8, 0x10#8, 0x14#8, 0x30#8, 0x34#8, 0x38#8, 0x3C#8] ∨ (0x08#8 ≤ v ∧ v ≤ 0x0F#8) ∨ 0x80#8 ≤ v

/-- A delivered entry of an operation other than `TX`. -/
def EncoderFrame (f : Frame) : Prop := f.rs = false ∧ f.rw = false ∧ EncoderByte f.d

/-- Where the next session is that of a transmission, `VAL` and `DM` hold a byte of R56. -/
def Composed (u : State) : Prop :=
  u.phase = .acq → configuring u = false → u.dm = false ∧ EncoderByte u.val

theorem composed_of_phase {u : State} (h : u.phase ≠ .acq) : Composed u := fun hp => absurd hp h

/-! ### The bytes composed -/

theorem encoderByte_clr : EncoderByte (byteOf clrValue) := .inl (by decide)

theorem encoderByte_home : EncoderByte (byteOf homeValue) := .inl (by decide)

theorem encoderByte_cur : EncoderByte (byteOf curValue) := .inl (by decide)

theorem encoderByte_cul : EncoderByte (byteOf culValue) := .inl (by decide)

theorem encoderByte_fmt (t f : Bool) : EncoderByte (byteOf (fmtValue t f)) := by
  unfold EncoderByte; revert t f; decide

theorem encoderByte_disp (o c b : Bool) : EncoderByte (byteOf (dispValue o c b)) := by
  unfold EncoderByte; revert o c b; decide

/-- Bit 7 is set, whatever column is OR-ed in. -/
theorem encoderByte_pos {col : Int} (b : Bool) (h : inByteRange (posValue col b) = true) :
    EncoderByte (byteOf (posValue col b)) := by
  rw [byteOf_posValue b (inByteRange_posValue col b ▸ h), BitVec.or_assoc]
  exact .inr (.inr (by simpa [BitVec.le_def] using Nat.left_le_or))

/-! ### The parts of an operation between its transmissions -/

theorem composed_drainThen (c : Status) (n : Arg) (s : State) : Composed (drainThen c n s) := by
  rcases drainThen_cases c n s with ⟨-, h⟩ | ⟨-, h⟩ <;> rw [h] <;> exact composed_of_phase (by simp)

theorem composed_raise (c : Status) (s : State) : Composed (raise c s) := by
  rcases raise_cases c s with ⟨-, -, h⟩ | ⟨-, h⟩ <;> rw [h] <;> exact composed_of_phase (by simp)

theorem composed_transmit {v : Int} (s : State) (hv : inByteRange v = true → EncoderByte (byteOf v)) :
    Composed (transmit v false s) := by
  rcases transmit_cases v false s with ⟨hr, h⟩ | ⟨-, h⟩ <;> rw [h]
  · exact fun _ _ => ⟨rfl, hv hr⟩
  · exact composed_raise _ s

theorem composed_moveLoop {v : Int} (s : State) (hv : EncoderByte (byteOf v)) : Composed (moveLoop v s) := by
  unfold moveLoop; split
  · exact composed_of_phase (by simp)
  · exact composed_transmit s fun _ => hv

theorem composed_textLoop (s : State) : Composed (textLoop s) := by
  unfold textLoop; split <;> exact composed_of_phase (by simp)

/-- What follows a transmission, whatever is in `REQR`. -/
theorem composed_afterTransmission (s : State) : Composed (afterTransmission s) := by
  unfold afterTransmission; split
  · unfold afterInit; split
    · exact composed_transmit _ fun _ => encoderByte_clr
    · split
      · exact composed_transmit _ fun _ => encoderByte_home
      · exact composed_of_phase (by simp)
  · exact composed_moveLoop _ encoderByte_cur
  · exact composed_moveLoop _ encoderByte_cul
  · exact composed_textLoop s
  · exact composed_of_phase (by simp)

theorem composed_single {v : Int} (s : State) (hv : inByteRange v = true → EncoderByte (byteOf v)) :
    Composed (single v false s) :=
  guardOr_induct (composed_raise _ s) (composed_transmit s hv)

theorem composed_repeated {v : Int} (n : Int) (s : State) (hv : EncoderByte (byteOf v)) :
    Composed (repeated v n s) :=
  guardOr_induct (body := fun u => moveLoop v (u.setK (moveCount n))) (composed_raise _ s)
    (composed_moveLoop (s.setK (moveCount n)) hv)

/-- Acceptance of a header other than `TX`; the first session of `INIT` is no transmission's. -/
theorem composed_start {i : Instr} (s : State) (hhead : i.isHeader = true) (htx : ∀ v d, i ≠ .tx v d) :
    Composed (start i s) := by
  cases i with
  | init =>
    intro _ hc
    simp [start, startInit, configuring, decode_encode_init] at hc
  | clr => exact composed_single _ fun _ => encoderByte_clr
  | home => exact composed_single _ fun _ => encoderByte_home
  | fmt t f => exact composed_single _ fun _ => encoderByte_fmt t f
  | disp o c b => exact composed_single _ fun _ => encoderByte_disp o c b
  | pos col b => exact composed_single _ (encoderByte_pos b)
  | cur n => exact composed_repeated n _ encoderByte_cur
  | cul n => exact composed_repeated n _ encoderByte_cul
  | wrs len =>
    exact guardOr_induct (body := fun u => textLoop (u.setK (textCount len))) (composed_drainThen _ _ _)
      (composed_textLoop _)
  | tx v d => exact absurd rfl (htx v d)
  | chr cp => cases hhead

/-! ### The run -/

/-- An operation other than `TX` in progress, begun with the delivered list `dl`. -/
structure Encoding (dl : List Frame) (u : State) : Prop where
  lines : Lines u
  asked : Composed u
  held : inTransmission u.phase = true → u.dm = false ∧ EncoderByte u.val
  delivered : ∃ fs, u.delivered = dl ++ fs ∧ ∀ f ∈ fs, EncoderFrame f

/-- Outside the session nothing is held. -/
theorem inTransmission_of_closed {p : Phase} (h : holdsSession p = false) : inTransmission p = false := by
  cases p <;> simp [holdsSession, inTransmission] at h ⊢

/-- What ends or begins an operation's part, with the session closed and the lines low. -/
theorem Encoding.of_quiet {dl : List Frame} {s t : State} (hs : s.ses = false) (hz : s.pin = 0x000#11)
    (hdl : ∃ fs, s.delivered = dl ++ fs ∧ ∀ f ∈ fs, EncoderFrame f) (hq : Quiet s t) (hc : Composed t) :
    Encoding dl t :=
  ⟨hq.lines hs hz, hc, fun ht => by simp [inTransmission_of_closed hq.phase] at ht, hq.delivered ▸ hdl⟩

/-- Up to the release `VAL` and `DM` stand, a transmission is not begun, and E's fall alone delivers an entry. -/
theorem advance_beforeRelease_byte (x : PortIn) {s : State} (hs : beforeRelease s.phase = true) :
    (advance x s).val = s.val ∧ (advance x s).dm = s.dm ∧
      (inTransmission (advance x s).phase = true → inTransmission s.phase = true) ∧
      ((advance x s).delivered = s.delivered ∨
        s.phase = .high ∧ (advance x s).delivered = s.delivered ++ [presented s.pin]) := by
  unfold advance
  split <;> rename_i hp <;> rw [hp] at hs <;> simp only [beforeRelease, Bool.false_eq_true] at hs
  all_goals
    simp only [edgeCfgoe, edgeCfglow, edgeSelect, edgeDrive, edgeSetup, edgeHigh, edgeFall, edgeReset]
    split <;> simp [hp, inTransmission]

section
variable {dl : List Frame} {u : State} (x : PortIn) (h : Encoding dl u)
include h

/-- The entry E's fall delivers is what the phase puts on the lines: `DM` and `VAL`. -/
theorem Encoding.beforeRelease (hb : beforeRelease u.phase = true) : Encoding dl (advance x u) := by
  obtain ⟨hval, hdm, hin, hdl⟩ := advance_beforeRelease_byte x hb
  obtain ⟨-, -, hsession, -⟩ := advance_beforeRelease x hb
  obtain ⟨fs, hfs, hgood⟩ := h.delivered
  refine ⟨lines_advance x h.lines, composed_of_phase fun hp => by simp [hp, holdsSession] at hsession,
    fun ht => hval ▸ hdm ▸ h.held (hin ht), ?_⟩
  rcases hdl with hdl | ⟨hp, hdl⟩
  · exact ⟨fs, hdl.trans hfs, hgood⟩
  · obtain ⟨hlow, hbyte⟩ := h.held (by rw [hp]; rfl)
    have hpin : presented u.pin = { rs := u.dm, rw := false, d := u.val } := by
      rw [h.lines.pins, phasePins, hp]; exact presented_high ..
    refine ⟨fs ++ [presented u.pin], by rw [hdl, hfs, List.append_assoc], ?_⟩
    simp only [List.forall_mem_append, List.forall_mem_singleton, hpin]
    exact ⟨hgood, hlow, rfl, hbyte⟩

/-- The session's answer: what is then held is what was asked for. -/
theorem Encoding.acq (hp : u.phase = .acq) : Encoding dl (edgeAcq x u) := by
  obtain ⟨hs, hz⟩ := h.lines.closed (by rw [hp]; rfl)
  have hl := lines_edgeAcq x h.lines hp
  unfold edgeAcq at hl ⊢
  cases ha : acqAnswer x.gpio (wantsSession u.phase) with
  | none => exact h
  | some a =>
    rw [ha] at hl
    cases a with
    | fail => exact .of_quiet (s := u.emit (.acq .fail)) hs hz h.delivered (quiet_raise ..) (composed_raise _ _)
    | ok =>
      cases hc : configuring u <;> simp only [hc] at hl ⊢
      · exact ⟨hl, composed_of_phase (by simp), fun _ => h.asked hp hc, h.delivered⟩
      · exact ⟨hl, composed_of_phase (by simp), by simp [inTransmission], h.delivered⟩

theorem Encoding.rel (hp : u.phase = .rel) : Encoding dl (edgeRel x u) := by
  have hz : u.pin = 0x000#11 := by rw [h.lines.pins, phasePins, hp]
  unfold edgeRel; split
  · exact h
  · exact .of_quiet (s := { u with ses := false, trace := u.trace ++ [.rel .fail] }) rfl hz h.delivered
      (quiet_raise ..) (composed_raise _ _)
  · exact .of_quiet (s := { u with ses := false, trace := u.trace ++ [.rel .ok] }) rfl hz h.delivered
      (quiet_afterTransmission _) (composed_afterTransmission _)

theorem Encoding.rsp (hp : u.phase = .rsp) : Encoding dl (edgeRsp x u) := by
  obtain ⟨hs, hz⟩ := h.lines.closed (by rw [hp]; rfl)
  unfold edgeRsp; split
  · exact .of_quiet hs hz h.delivered (quiet_goto u rfl) (composed_of_phase (by simp))
  · exact h

/-- Every edge of a busy phase. -/
theorem Encoding.advance (hw : takesWord u.phase = false) : Encoding dl (advance x u) := by
  rcases advance_cases x u with hb | ⟨hw', -⟩ | ⟨hp, he⟩ | ⟨hp, he⟩ | ⟨hp, he⟩
  · exact h.beforeRelease x hb
  · simp [hw] at hw'
  · rw [he]; exact h.acq x hp
  · rw [he]; exact h.rel x hp
  · rw [he]; exact h.rsp x hp

end

/-- Settles O49: the run's invariant, begun at acceptance. -/
theorem encoderComposesOnlyItsBytes : Obligations.EncoderComposesOnlyItsBytes := by
  intro i s t hhead htx ⟨_, hs, hz⟩ hr hexec
  obtain ⟨-, -, -, fs, hfs, hgood⟩ : Encoding s.delivered t :=
    exec_induct hexec hr (fun u l h => ⟨⟨h.lines.session, h.lines.pins⟩, h.asked, h.held, h.delivered⟩)
      (fun x u hw h => h.advance x hw)
      (.of_quiet hs hz ⟨[], by simp, by simp⟩ (quiet_start i s) (composed_start s hhead htx))
  rw [hfs, List.drop_left]
  exact hgood

end Sys2Proof.Machine

/-! ## O21: the waits of the trace (R75)

An edge ends a wait only together with a write of E, and the timer's clauses of the invariant bound its length;
every other event is no wait. -/

namespace Sys2Proof.Machine

theorem waitsKept_append {c : Config} {es fs : List Event} (he : waitsKept c es = true)
    (hf : waitsKept c fs = true) : waitsKept c (es ++ fs) = true := by
  fun_induction waitsKept c es with
  | case1 => exact hf
  | case2 t v es ih =>
    obtain ⟨hlong, hrest⟩ := Bool.and_eq_true_iff.1 he
    exact Bool.and_eq_true_iff.2 ⟨hlong, ih hrest⟩
  | case3 => cases he
  | case4 _ _ ih | case5 _ _ ih | case6 _ _ ih | case7 _ _ ih | case8 _ _ ih => exact ih he

/-- An event that is no wait is never short. -/
theorem waitsKept_snoc {c : Config} {es : List Event} {e : Event} (hk : waitsKept c es = true)
    (h : ∀ n, e ≠ .wait n) : waitsKept c (es ++ [e]) = true := by
  refine waitsKept_append hk ?_
  cases e with
  | wait n => exact absurd rfl (h n)
  | acq | rel | oe | pin | rsp => rfl

/-- A wait that ends with a write of E, long enough for the level written. -/
theorem waitsKept_snoc_wait {c : Config} {es : List Event} {n : Nat} {v : Pins} (hk : waitsKept c es = true)
    (hn : if level v .e then nSetup c ≤ n else nPulse c ≤ n) :
    waitsKept c (es ++ [.wait n, .pin v]) = true := by
  refine waitsKept_append hk ?_
  by_cases hv : level v .e = true <;> simpa [waitsKept, hv] using hn

/-- Responses are no waits. -/
theorem Quiet.waitsKept {c : Config} {s t : State} (h : Quiet s t) (hk : waitsKept c s.trace = true) :
    waitsKept c t.trace = true := by
  obtain ⟨es, htr, hes⟩ := h.trace
  rw [htr]
  refine waitsKept_append hk ?_
  clear htr
  induction es with
  | nil => rfl
  | cons e es ih =>
    obtain ⟨a, rfl⟩ := hes e List.mem_cons_self
    exact ih fun e he => hes e (List.mem_cons_of_mem _ he)

theorem waitsKept_pinWrite {c : Config} {s : State} (ws : List (Role × Bool)) (hk : waitsKept c s.trace = true) :
    waitsKept c (pinWrite ws s).trace = true := by
  unfold pinWrite; split
  · exact waitsKept_snoc hk (by simp)
  · exact hk

theorem waitsKept_enableOutputs {c : Config} {s : State} (hk : waitsKept c s.trace = true) :
    waitsKept c (enableOutputs s).trace = true := by
  unfold enableOutputs; split
  · exact waitsKept_snoc hk (by simp)
  · exact hk

section
variable (x : PortIn) {c : Config} {u : State} (hk : waitsKept c u.trace = true)
include hk

theorem waitsKept_edgeAcq : waitsKept c (edgeAcq x u).trace = true := by
  unfold edgeAcq; split
  · exact hk
  · exact (quiet_raise .deviceUnavailable (u.emit (.acq .fail))).waitsKept (waitsKept_snoc hk (by simp))
  · exact waitsKept_snoc hk (by simp)

theorem waitsKept_edgeRel : waitsKept c (edgeRel x u).trace = true := by
  unfold edgeRel; split
  · exact hk
  · exact (quiet_raise ..).waitsKept (waitsKept_snoc hk (by simp))
  · exact (quiet_afterTransmission _).waitsKept (waitsKept_snoc hk (by simp))

/-- The end of a wait in the session, and the write of E at it. -/
theorem waitsKept_endWait {b : Bool} (hs : u.ses = true)
    (hn : if b then nSetup c ≤ u.waited + 1 else nPulse c ≤ u.waited + 1) :
    waitsKept c (pinWrite [(.e, b)] (endWait (countCycle u))).trace = true := by
  rw [pinWrite_open _ (by simpa using hs)]
  simpa using waitsKept_snoc_wait (v := writeLevels u.pin [(.e, b)]) hk (by simpa using hn)

end

section
variable (x : PortIn) {u : State} (h : Coherent u) (hk : waitsKept u.cfg u.trace = true)
include h hk

/-- E rises: the setup wait has lasted. -/
theorem waitsKept_edgeSetup (hp : u.phase = .setup) : waitsKept u.cfg (edgeSetup x u).trace = true := by
  unfold edgeSetup; split
  · next hover =>
    have htmr := ((waitOver_iff x u).1 hover).1
    have hlong := h.setupWait hp
    exact waitsKept_endWait (b := true) hk (h.session.trans (by rw [hp]; rfl)) (by simp; omega)
  · exact hk

/-- E falls: the pulse wait has lasted. -/
theorem waitsKept_edgeHigh (hp : u.phase = .high) : waitsKept u.cfg (edgeHigh x u).trace = true := by
  unfold edgeHigh; split
  · next hover =>
    have htmr := ((waitOver_iff x u).1 hover).1
    have hlong := h.pulseWait hp
    exact waitsKept_endWait (b := false) hk (h.session.trans (by rw [hp]; rfl)) (by simp; omega)
  · exact hk

/-- Every edge of the sequencer. -/
theorem waitsKept_advance : waitsKept u.cfg (advance x u).trace = true := by
  unfold advance
  split <;> rename_i hp
  case h_1 | h_2 | h_3 => exact hk
  case h_4 => exact waitsKept_edgeAcq x hk
  case h_9 => exact waitsKept_edgeSetup x h hk hp
  case h_10 => exact waitsKept_edgeHigh x h hk hp
  case h_13 => exact waitsKept_edgeRel x hk
  -- the other phases stay, or write lines without a wait
  all_goals
    simp only [edgeCfgoe, edgeCfglow, edgeSelect, edgeDrive, edgeFall, edgeReset, edgeRsp]
    split <;> simp [hk, waitsKept_pinWrite, waitsKept_enableOutputs]

/-- Every edge of the block. -/
theorem waitsKept_clockEdge : waitsKept (clockEdge x u).cfg (clockEdge x u).trace = true := by
  rw [clockEdge_cfg]
  by_cases hr : x.rst = true
  · simpa [clockEdge, hr] using hk
  rcases clockEdge_cases u (by simpa using hr) with ⟨-, i, -, he⟩ | ⟨-, he⟩ | he <;> rw [he]
  · exact (quiet_start i u).waitsKept hk
  · exact (quiet_respond ..).waitsKept hk
  · exact waitsKept_advance x h hk

end

theorem waitsKept_clockEdges (n : Nat) : ∀ {s : State}, Coherent s → waitsKept s.cfg s.trace = true →
    waitsKept (clockEdges n s).cfg (clockEdges n s).trace = true := by
  induction n with
  | zero => exact fun _ hk => hk
  | succ n ih =>
    intro s h hk
    unfold clockEdges
    split
    · exact hk
    · next x xs _ =>
      have hin := coherent_inputs xs h
      exact ih (everyClockEdgeKeepsTheInvariant x _ hin) (waitsKept_clockEdge x hin hk)

/-- Settles O21: a step is a number of clock edges (O9), and each ends waits only when they have lasted. -/
theorem waitsAreNeverShort : Obligations.WaitsAreNeverShort := by
  intro s t h hk hstep
  obtain ⟨n, -, ht, -⟩ := stepIsAWholeNumberOfClockEdges s t hstep
  exact ht ▸ waitsKept_clockEdges n h hk

end Sys2Proof.Machine

/-! ## O31: the bit string and its lines (R70, R71) -/

namespace Sys2Proof.Machine

/-- Step 4 of `Transmit` brings line Dk to bit k of the byte (R71). -/
theorem level_driveWrites (v : Pins) (b : Byte) {k : Nat} (hk : k < 8) :
    level (writeLevels v (driveWrites b)) (dataRole k) = b.getLsbD k := by
  interval_cases k <;> simp [writeLevels, driveWrites, level_setLevel, dataRole]

/-- The byte of an integer in range has the integer's bits. -/
theorem getLsbD_byteOf {n : Int} (h0 : 0 ≤ n) {k : Nat} (hk : k < 8) :
    (byteOf n).getLsbD k = n.toNat.testBit k := by
  lift n to Nat using h0
  rw [byteOf, BitVec.ofInt_natCast, BitVec.getLsbD_ofNat]
  simp [hk]

/-- A character of the string, by its index (R70). -/
theorem getElem?_bitString {n : Nat} {i : Nat} (hi : i < 8) :
    ((List.range 8).map fun i => if n.testBit (7 - i) then '1' else '0')[i]? =
      some (if n.testBit (7 - i) then '1' else '0') := by
  simp [hi]

/-- Settles O31: the string's characters, and the lines, are the bits of the byte. -/
theorem stringIndexDrivesTheReversedLine : Obligations.StringIndexDrivesTheReversedLine := by
  refine ⟨fun n h0 h255 => ?_, fun n h => ?_⟩
  · have hr : inByteRange n = true := by simp [inByteRange, h0, h255]
    refine ⟨_, if_pos hr, by simp, fun i hi => ?_⟩
    rw [getElem?_bitString hi]
    refine ⟨rfl, fun v => ?_⟩
    have hk : 7 - i < 8 := by omega
    rw [lineOfStringIndex, level_driveWrites v _ hk, getLsbD_byteOf h0 hk]
    cases n.toNat.testBit (7 - i) <;> rfl
  · rw [bitString, (inByteRange_eq_false_iff n).2 h]
    rfl

end Sys2Proof.Machine

/-! ## O36, O43, O47: the operations of one transmission

They are accepted alike, with their byte (`start_singleByte`), and then are one transmission and its answer. -/

namespace Sys2Proof.Machine

theorem isSingle_of_singleByte {i : Instr} {b : Byte × Bool} (h : singleByte i = some b) : isSingle i = true := by
  cases i with
  | clr | home | fmt | disp | pos | tx => rfl
  | init | cur | cul | wrs | chr => cases h

/-- A byte is in the range of `Transmit`, and is its own register value. -/
theorem single_byte (v : Byte) (d : Bool) {s : State} (hi : s.initf = true) :
    single (Int.ofNat v.toNat) d s = { s with val := v, dm := d, phase := .acq } := by
  have hlt := v.isLt
  have hr : inByteRange (Int.ofNat v.toNat) = true := by
    simp only [inByteRange, Bool.and_eq_true, decide_eq_true_eq, Int.ofNat_eq_natCast]
    omega
  have hv : byteOf (Int.ofNat v.toNat) = v := by simp [byteOf]
  rw [single, guarded_on hi, transmit_inRange d s hr, hv]

/-- The state in which an operation of one transmission asks for the session, with its byte and mode. -/
def State.askFor (i : Instr) (v : Byte) (d : Bool) (s : State) : State :=
  { s with reqr := encode i, val := v, dm := d, phase := .acq }

/-- An initialised machine that accepts an operation of one transmission asks for the session with the operation's
byte (R80, R90). -/
theorem start_singleByte {i : Instr} {v : Byte} {d : Bool} {s : State} (hb : singleByte i = some (v, d))
    (hi : s.initf = true) : start i s = s.askFor i v d := by
  obtain ⟨-, hvalue, -⟩ := composedValuesAreTheControlBytes
  have hv := hvalue i v d hb
  suffices h : start i s = single (Int.ofNat v.toNat) d (s.latch (encode i)) from
    h.trans (single_byte v d (s := s.latch (encode i)) hi)
  cases i with
  | clr | home | fmt | disp => cases hb; exact congrArg (single · false _) hv
  | pos | tx =>
    simp only [singleByte, Option.ite_none_right_eq_some, Option.some.injEq, Prod.mk.injEq] at hb
    obtain ⟨-, -, rfl⟩ := hb
    exact congrArg (single · _ _) hv
  | init | cur | cul | wrs | chr => cases hb

/-- In a request of one transmission nothing is configured. -/
theorem configuring_of_isSingle {i : Instr} (h : isSingle i = true) {u : State} (hreq : u.reqr = encode i) :
    configuring u = false := by
  obtain ⟨hinit, -⟩ := encodeOp_of_isSingle h
  exact configuring_of_latched hreq hinit

/-- An error in it is answered at once. -/
theorem raise_of_isSingle {i : Instr} (h : isSingle i = true) {u : State} (hreq : u.reqr = encode i) (c : Status) :
    raise c u = respond c u := by
  obtain ⟨-, -, -, hwrs⟩ := encodeOp_of_isSingle h
  exact raise_single (inBurst_of_latched hreq hwrs)

/-- Its transmission made, it is answered `OK`. -/
theorem afterTransmission_of_isSingle {i : Instr} (h : isSingle i = true) {u : State} (hreq : u.reqr = encode i) :
    afterTransmission u = respond .ok u := by
  obtain ⟨hinit, hcur, hcul, hwrs⟩ := encodeOp_of_isSingle h
  exact afterTransmission_single hreq hinit hcur hcul hwrs

/-- Settles O36: acceptance, the transmission with prompt agents, and the response. -/
theorem singleCommandsComplete : Obligations.SingleCommandsComplete := by
  intro i v d s hb ⟨hp, hs, hz⟩ hi ⟨hlen, hprompt⟩
  have hsingle := isSingle_of_singleByte hb
  have htake : ∀ x ∈ s.inputs.take (transmissionCycles s.cfg), prompt x = true := fun x hx =>
    hprompt x (List.take_subset_take_left _ (Nat.le_succ _) hx)
  have hrsp : ∀ x ∈ (s.inputs.drop (transmissionCycles s.cfg)).take 1, prompt x = true := fun x hx =>
    hprompt x (by rw [List.take_add]; exact List.mem_append_right _ hx)
  rw [exec_eq_settle_start, settle, (quiet_start i s).inputs, start_singleByte hb hi]
  rw [prompt_tx s.inputs (s.askFor i v d) (Nat.le_of_succ_le hlen) htake rfl hs hz
    (configuring_of_isSingle hsingle rfl)]
  rw [afterTransmission_of_isSingle hsingle rfl]
  simp only [State.askFor]
  rw [prompt_rsp _ _ (by simp; omega) hrsp rfl]
  simp [respond, hp]

/-! ### Any agents -/

/-- The ends R76 leaves an operation of one transmission of `v`, begun with the trace `tr` and the delivered list
`dl`: no session, or the whole of R73's events. -/
def SingleOutcome (c : Config) (v : Byte) (d : Bool) (tr : List Event) (dl : List Frame) (u : State) : Prop :=
  (u.stat = .deviceUnavailable ∧ u.trace = tr ++ [.acq .fail, .rsp .deviceUnavailable] ∧ u.delivered = dl) ∨
  (∃ t1 t2 a, LongEnough c (t1, t2) ∧ u.delivered = dl ++ [sentFrame v d] ∧
    u.stat = (if a = .ok then .ok else .deviceUnavailable) ∧ u.trace = tr ++ sent v d t1 t2 a ++ [.rsp u.stat])

/-- Where an operation of one transmission stands: in its transmission, or ended. -/
inductive SingleRun (c : Config) (v : Byte) (d : Bool) (tr : List Event) (dl : List Frame) (u : State) : Prop where
  | sending (t1 t2 : Nat) (h : Sending c v d tr dl t1 t2 u)
  | ended (hp : u.phase = .rsp ∨ u.phase = .idle) (h : SingleOutcome c v d tr dl u)

section
variable {c : Config} {v : Byte} {d : Bool} {tr : List Event} {dl : List Frame} {u : State}

/-- The samples to come play no part. -/
theorem SingleRun.withInputs (h : SingleRun c v d tr dl u) (l : List PortIn) :
    SingleRun c v d tr dl { u with inputs := l } := by
  cases h with
  | sending t1 t2 h =>
    exact .sending t1 t2
      ⟨h.phase, h.val, h.dm, h.cfg, h.session, h.pins, h.trace, h.delivered, h.setup, h.high, h.past⟩
  | ended hp h => exact .ended hp h

/-- An edge of the transmission takes it on, or ends the operation (R76). -/
theorem SingleRun.of_sending {i : Instr} {t1 t2 : Nat} (hi : isSingle i = true) (hreq : u.reqr = encode i)
    (h : Sending c v d tr dl t1 t2 u) (x : PortIn) : SingleRun c v d tr dl (advance x u) := by
  rcases sending_edge x h fun _ => configuring_of_isSingle hi hreq with
    ⟨a, b, hsend, -⟩ | ⟨-, htr, hdl, -, -, he⟩ | ⟨-, hlong, hdl, -, he | he⟩
  · exact .sending a b hsend
  · rw [he, raise_of_isSingle hi (by exact hreq)]
    exact .ended (.inl rfl) (.inl ⟨rfl, by simp [htr], hdl⟩)
  · rw [he, raise_of_isSingle hi (by exact hreq)]
    exact .ended (.inl rfl) (.inr ⟨t1, t2, .fail, hlong, hdl, rfl, rfl⟩)
  · rw [he, afterTransmission_of_isSingle hi (by exact hreq)]
    exact .ended (.inl rfl) (.inr ⟨t1, t2, .ok, hlong, hdl, rfl, rfl⟩)

/-- Every edge of a busy phase. -/
theorem SingleRun.advance {i : Instr} (hi : isSingle i = true) (hreq : u.reqr = encode i)
    (h : SingleRun c v d tr dl u) (x : PortIn) (hw : takesWord u.phase = false) :
    SingleRun c v d tr dl (advance x u) := by
  cases h with
  | sending t1 t2 h => exact .of_sending hi hreq h x
  | ended hp h =>
    have hp : u.phase = .rsp := hp.resolve_right fun hp => by simp [hp, takesWord] at hw
    rw [advance_rsp x hp, edgeRsp]
    split
    · exact .ended (.inr rfl) h
    · exact .ended (.inl hp) h

end

/-- Settles O43: the run's invariant, read in `P_IDLE`. -/
theorem singleCommandOutcomes : Obligations.SingleCommandOutcomes := by
  intro i v d s t hb ⟨_, hs, hz⟩ hi hr hexec hp
  have hsingle := isSingle_of_singleByte hb
  have hrun : t.reqr = encode i ∧ SingleRun s.cfg v d s.trace s.delivered t := by
    refine exec_induct (P := fun u => u.reqr = encode i ∧ SingleRun s.cfg v d s.trace s.delivered u) hexec hr
      (fun u l ⟨hreq, h⟩ => ⟨hreq, h.withInputs l⟩) ?_ ?_
    · exact fun x u hw ⟨hreq, h⟩ => ⟨(advance_reqr x u).trans hreq, h.advance hsingle hreq x hw⟩
    · rw [start_singleByte hb hi]
      exact ⟨rfl, .sending 0 0 (sending_of_acq (u := s.askFor i v d) rfl hs hz)⟩
  obtain ⟨-, hrun⟩ := hrun
  cases hrun with
  | sending t1 t2 h =>
    have hphase := h.phase
    simp [hp, inTransmission] at hphase
  | ended _ h => exact h

/-! ### The time it takes (R152) -/

/-- The least number of edges from here to the acceptance of the response `OK`, in an operation of one
transmission. One that has failed is never answered `OK`, and stands as far from it as at its beginning; it never
comes to the phases in which a word is taken or the lines are configured. -/
def edgesLeft (u : State) : Nat :=
  match u.phase with
  | .acq => transmissionCycles u.cfg + 1
  | .select => nSetup u.cfg + nPulse u.cfg + 6
  | .drive => nSetup u.cfg + nPulse u.cfg + 5
  | .setup => u.tmr + nPulse u.cfg + 4
  | .high => u.tmr + 4
  | .fall => 4
  | .reset => 3
  | .rel => 2
  | .rsp => if u.stat = .ok then 1 else transmissionCycles u.cfg + 1
  | .idle => if u.stat = .ok then 0 else transmissionCycles u.cfg + 1
  | .payload | .drain | .cfgoe | .cfglow => 0

/-- Where every edge of the sequencer that keeps `P` brings the end nearer by at most one, a run takes at least as
many edges as it has come nearer. -/
theorem settleFrom_distance {P : State → Prop} {f : State → Nat} (hin : ∀ s l, f { s with inputs := l } = f s)
    (hedge : ∀ x u, takesWord u.phase = false → P u → P (advance x u) ∧ f u ≤ f (advance x u) + 1) :
    ∀ (xs : List PortIn) (s : State), (∀ x ∈ xs, x.rst = false) → P s →
      f s + (settleFrom xs s).inputs.length ≤ f (settleFrom xs s) + xs.length
  | [], s, _, _ => by simp [settleFrom, hin]
  | x :: xs, s, hr, h => by
    by_cases hw : takesWord s.phase = true
    · simp [settleFrom_ready _ hw, hin]
    · have hw : takesWord s.phase = false := by simpa using hw
      have hx : busyEdge x s = advance x s := by simp [busyEdge, hr x List.mem_cons_self]
      obtain ⟨hP, hf⟩ := hedge x s hw h
      have ih := settleFrom_distance hin hedge xs _ (fun y hy => hr y (List.mem_cons_of_mem x hy)) hP
      rw [settleFrom_busy x xs hw, hx, List.length_cons]
      omega

section
variable {i : Instr} (h : isSingle i = true) (x : PortIn) {u : State} (hreq : u.reqr = encode i)

theorem edgesLeft_edgeSetup (hp : u.phase = .setup) : edgesLeft u ≤ edgesLeft (edgeSetup x u) + 1 := by
  unfold edgeSetup; split
  · next hover =>
    have htmr := ((waitOver_iff x u).1 hover).1
    simp [edgesLeft, hp]
    omega
  · simp [edgesLeft, hp]
    omega

theorem edgesLeft_edgeHigh (hp : u.phase = .high) : edgesLeft u ≤ edgesLeft (edgeHigh x u) + 1 := by
  unfold edgeHigh; split
  · next hover =>
    have htmr := ((waitOver_iff x u).1 hover).1
    simp [edgesLeft, hp]
    omega
  · simp [edgesLeft, hp]
    omega

theorem edgesLeft_edgeRsp (hp : u.phase = .rsp) : edgesLeft u ≤ edgesLeft (edgeRsp x u) + 1 := by
  unfold edgeRsp; split
  · by_cases hs : u.stat = .ok <;> simp [edgesLeft, hp, hs]
  · simp

include h hreq

theorem edgesLeft_edgeAcq (hp : u.phase = .acq) : edgesLeft u ≤ edgesLeft (edgeAcq x u) + 1 := by
  unfold edgeAcq; split
  · simp
  · rw [raise_of_isSingle h (by exact hreq)]
    simp [edgesLeft, hp]
  · simp [edgesLeft, hp, configuring_of_isSingle h hreq, transmissionCycles]

theorem edgesLeft_edgeRel (hp : u.phase = .rel) : edgesLeft u ≤ edgesLeft (edgeRel x u) + 1 := by
  unfold edgeRel; split
  · simp
  · rw [raise_of_isSingle h (by exact hreq)]
    simp [edgesLeft, hp]
  · rw [afterTransmission_of_isSingle h (by exact hreq)]
    simp [edgesLeft, hp]

/-- Every edge of a busy phase. -/
theorem edgesLeft_advance (hw : takesWord u.phase = false) : edgesLeft u ≤ edgesLeft (advance x u) + 1 := by
  unfold advance
  split <;> rename_i hp
  case h_1 | h_2 | h_3 => simp [hp, takesWord] at hw
  case h_4 => exact edgesLeft_edgeAcq h x hreq hp
  case h_9 => exact edgesLeft_edgeSetup x hp
  case h_10 => exact edgesLeft_edgeHigh x hp
  case h_13 => exact edgesLeft_edgeRel h x hreq hp
  case h_14 => exact edgesLeft_edgeRsp x hp
  -- the untimed phases stay, or go on to the next
  all_goals
    simp only [edgeCfgoe, edgeCfglow, edgeSelect, edgeDrive, edgeFall, edgeReset]
    split <;> simp [edgesLeft, hp]

end

/-- Settles O47: acceptance leaves the whole least time to go, and the response `OK` taken leaves none. -/
theorem transmissionTakesItsLeastTime : Obligations.TransmissionTakesItsLeastTime := by
  intro i v d s t hb _ hi hr hexec hp hstat
  have hsingle := isSingle_of_singleByte hb
  rw [exec_eq_settle_start, settle, (quiet_start i s).inputs, start_singleByte hb hi] at hexec
  cases hexec
  have hrun := settleFrom_distance (P := fun u => u.reqr = encode i) (f := edgesLeft) (fun _ _ => rfl)
    (fun x u hw hreq => ⟨(advance_reqr x u).trans hreq, edgesLeft_advance hsingle x hreq hw⟩) s.inputs
    (s.askFor i v d) hr rfl
  rw [show edgesLeft (settleFrom s.inputs _) = 0 by simp [edgesLeft, hp, hstat], Nat.zero_add] at hrun
  exact hrun

end Sys2Proof.Machine

/-! ## O39, O40, O41: the words of a string, with prompt agents

Each word is an accepting edge, at most one transmission, and then the loop head of `WRS` or an error. -/

namespace Sys2Proof.Machine

/-- The first `n` of these samples are there, and are prompt. -/
abbrev PromptSamples (n : Nat) (l : List PortIn) : Prop := n ≤ l.length ∧ ∀ x ∈ l.take n, prompt x = true

/-- Prompt samples for one part of an operation, and then for the next. -/
theorem PromptSamples.split {n m : Nat} {l : List PortIn} (h : PromptSamples (n + m) l) :
    PromptSamples n l ∧ PromptSamples m (l.drop n) := by
  obtain ⟨hlen, hp⟩ := h
  rw [List.take_add] at hp
  exact ⟨⟨by omega, fun x hx => hp x (List.mem_append_left _ hx)⟩,
    ⟨by rw [List.length_drop]; omega, fun x hx => hp x (List.mem_append_right _ hx)⟩⟩

/-- `exec` is the accepting edge, and the run over the samples that were there. -/
theorem exec_eq_settleFrom (i : Instr) (s : State) : exec i s = .next (settleFrom s.inputs (start i s)) := by
  rw [exec_eq_settle_start, settle, (quiet_start i s).inputs]

/-- A response, taken by a prompt host. -/
theorem settleFrom_respond {l : List PortIn} (c : Status) (s : State) (h : PromptSamples 1 l) :
    settleFrom l (respond c s) = { respond c s with phase := .idle, inputs := l.drop 1 } :=
  prompt_rsp l (respond c s) h.1 h.2 rfl

/-- With no word left the loop head of `WRS` answers `OK`, which a prompt host takes (R98). -/
theorem settleFrom_textLoop_none {l : List PortIn} {s : State} (hk : s.k = 0#32) (h : PromptSamples 1 l) :
    settleFrom l (textLoop s) = { respond .ok s with phase := .idle, inputs := l.drop 1 } := by
  rw [textLoop, if_pos hk, settleFrom_respond _ _ h]

/-! ### The header -/

/-- An initialised machine that accepts a string's header comes to the loop head with its length in `K` (R98). -/
theorem start_wrs {len : Int} {s : State} (hi : s.initf = true) :
    start (.wrs len) s = textLoop ((s.latch (encode (.wrs len))).setK (textCount len)) := by
  rw [start, startWrs, guardOr_on (by simpa using hi)]

/-- A length that is not negative is in `K` as it was in the word. -/
theorem textCount_eq_ofInt {len : Int} (h : 0 ≤ len) : textCount len = BitVec.ofInt 32 len := by
  lift len to Nat using h
  simp [textCount]

/-- Settles O39: the loop head waits for the first word, or finds none to wait for. -/
theorem stringHeaderCompletes : Obligations.StringHeaderCompletes := by
  intro len s hwf hi
  obtain ⟨hfits, hnonneg⟩ : fitsArg len = true ∧ 0 ≤ len := by simpa [Instr.wellFormed] using hwf
  rw [exec_eq_settleFrom, start_wrs hi]
  refine ⟨fun hpos => ?_, ?_⟩
  · have hk : textCount len ≠ 0#32 := ofNat_ne_zero (by omega) (by simp [fitsArg] at hfits; omega)
    rw [settleFrom_textLoop_more (s := (s.latch (encode (.wrs len))).setK (textCount len)) _ hk,
      textCount_eq_ofInt hnonneg]
    rfl
  · rintro rfl hprompt
    rw [settleFrom_textLoop_none rfl hprompt]
    rfl

/-! ### The characters -/

/-- The word taken was the last exactly when none is left. -/
theorem sub_one_eq_zero_iff (k : Arg) : k - 1#32 = 0#32 ↔ k = 1#32 := sub_eq_zero

/-- A character in range with prompt agents: its transmission, then the loop head (R98). -/
theorem exec_chr_inRange {c : Int} {s : State} (hc : inByteRange c = true) (hs : InText s)
    (h : PromptSamples (transmissionCycles s.cfg) s.inputs) :
    exec (.chr c) s = .next (settleFrom (s.inputs.drop (transmissionCycles s.cfg)) (textLoop (s.charSent c))) := by
  obtain ⟨hlen, hprompt⟩ := h
  rw [exec_eq_settleFrom, ← settleFrom_chr _ _ hc hs (List.length_take_of_le hlen) hprompt, List.take_append_drop]

/-- Settles O40: after the transmission the loop head waits for the next word, or finds none to wait for. -/
theorem characterCompletes : Obligations.CharacterCompletes := by
  intro c s h0 h255 hs
  have hc : inByteRange c = true := by simp [inByteRange, h0, h255]
  have hp : s.phase = .payload := hs.1
  refine ⟨fun hk hprompt => ?_, fun hk hprompt => ?_⟩
  · have hleft : (s.charSent c).k ≠ 0#32 := mt (sub_one_eq_zero_iff s.k).1 hk
    rw [exec_chr_inRange hc hs hprompt, settleFrom_textLoop_more _ hleft]
    simp [State.charSent, byteOf, hp]
  · have hnone : (s.charSent c).k = 0#32 := (sub_one_eq_zero_iff s.k).2 hk
    obtain ⟨hsend, hrsp⟩ := PromptSamples.split hprompt
    rw [exec_chr_inRange hc hs hsend, settleFrom_textLoop_none hnone hrsp]
    simp [State.charSent, byteOf, respond, hk]

/-- A character out of range ends the string at acceptance, with the words that are left to drain (R98). -/
theorem start_chr_outOfRange {c : Int} {s : State} (hc : inByteRange c = false) (hs : InText s) :
    start (.chr c) s = drainThen .invalidCommand (s.k - 1#32) (s.setK (s.k - 1#32)) := by
  obtain ⟨hp, -, -, hb, -⟩ := hs
  have hb' : inBurst (s.setK (s.k - 1#32)) = true := hb
  show (if s.phase = .drain then drainWord s else textWord c s) = _
  rw [if_neg (by simp [hp]), textWord, transmit, if_neg (by simp [hc]), raise, if_pos hb', State.setK_k]

/-- Settles O41: the error at acceptance, with words left to drain or none. -/
theorem badCharacterEndsTheString : Obligations.BadCharacterEndsTheString := by
  intro c s hout hs
  rw [exec_eq_settleFrom, start_chr_outOfRange ((inByteRange_eq_false_iff c).2 hout) hs, drainThen]
  refine ⟨fun hk => ?_, fun hk hprompt => ?_⟩
  · rw [if_neg (mt (sub_one_eq_zero_iff s.k).1 hk), settleFrom_ready _ rfl]
    rfl
  · have hnone : s.k - 1#32 = 0#32 := (sub_one_eq_zero_iff s.k).2 hk
    rw [if_pos hnone, settleFrom_respond _ _ hprompt, hnone]
    rfl

end Sys2Proof.Machine

/-! ## O37, O44: the repeated commands

Both are their byte and their count (`moveByte`): a loop head, reached at acceptance and after each transmission. -/

namespace Sys2Proof.Machine

section
variable {i : Instr} {v : Byte} {n : Int} (hb : moveByte i = some (v, n))
include hb

/-- Their code is that of no other operation that goes on after a session. -/
theorem encodeOp_of_moveByte : encodeOp i ≠ 0x01#8 ∧ encodeOp i ≠ 0x09#8 := by
  cases i with
  | cur | cul => simp [encodeOp]
  | init | clr | home | fmt | disp | pos | wrs | tx | chr => cases hb

/-- An initialised machine that accepts one comes to the loop head with the count in `K` (R90). -/
theorem start_moveByte {s : State} (hi : s.initf = true) :
    start i s = moveLoop (Int.ofNat v.toNat) ((s.latch (encode i)).setK (moveCount n)) := by
  cases i with
  | cur | cul =>
    cases hb
    exact guarded_on (s := s.latch _) (body := fun u => moveLoop _ (u.setK (moveCount n))) hi
  | init | clr | home | fmt | disp | pos | wrs | tx | chr => cases hb

/-- Its transmission made, it comes to the loop head with one fewer to make (R90). -/
theorem afterTransmission_moveByte (hwf : i.wellFormed = true) {u : State} (hreq : u.reqr = encode i) :
    afterTransmission u = afterMove (Int.ofNat v.toNat) u := by
  cases i with
  | cur | cul =>
    cases hb
    rw [afterTransmission, hreq, decodeOfEncodeIsTheRequest _ hwf rfl]
    rfl
  | init | clr | home | fmt | disp | pos | wrs | tx | chr => cases hb

/-- Its count is one `K` holds. -/
theorem toNat_le_of_moveByte (hwf : i.wellFormed = true) : n.toNat ≤ 2147483647 := by
  cases i with
  | cur m | cul m =>
    cases hb
    simp only [Instr.wellFormed, fitsArg, Bool.and_eq_true, decide_eq_true_eq] at hwf
    omega
  | init | clr | home | fmt | disp | pos | wrs | tx | chr => cases hb

/-- Nothing is configured in it. -/
theorem configuring_of_moveByte {u : State} (hreq : u.reqr = encode i) : configuring u = false :=
  configuring_of_latched hreq (encodeOp_of_moveByte hb).1

/-- An error in it is answered at once. -/
theorem raise_of_moveByte {u : State} (hreq : u.reqr = encode i) (c : Status) : raise c u = respond c u :=
  raise_single (inBurst_of_latched hreq (encodeOp_of_moveByte hb).2)

end

/-- With none left to make the loop head answers `OK` (R90). -/
theorem moveLoop_none (value : Int) {s : State} (hk : s.k = 0#32) : moveLoop value s = respond .ok s := if_pos hk

/-- With some left it asks for the session of the next. -/
theorem moveLoop_more (v : Byte) {s : State} (hi : s.initf = true) (hk : s.k ≠ 0#32) :
    moveLoop (Int.ofNat v.toNat) s = { s with val := v, dm := false, phase := .acq } := by
  rw [← single_byte v false hi, moveLoop, if_neg hk, single, guarded_on hi]

/-- One fewer to make. -/
theorem ofNat_succ_sub_one (m : Nat) : BitVec.ofNat 32 (m + 1) - 1#32 = BitVec.ofNat 32 m := by
  rw [BitVec.ofNat_add, BitVec.add_sub_cancel]

/-- A repeated command in flight, with `m` transmissions to make by `K`. -/
structure MovesLeft (i : Instr) (m : Nat) (s : State) : Prop where
  reqr : s.reqr = encode i
  initf : s.initf = true
  count : s.k = BitVec.ofNat 32 m

/-- Each counts down by one (R17). -/
theorem MovesLeft.count_down {i : Instr} {m : Nat} {s : State} (h : MovesLeft i (m + 1) s) :
    MovesLeft i m (s.setK (s.k - 1#32)) :=
  ⟨h.reqr, h.initf, by rw [State.setK_k, h.count, ofNat_succ_sub_one]⟩

/-! ### Prompt agents -/

/-- The state in which a transmission of a repeated command has been answered, with prompt agents. -/
def State.moveSent (v : Byte) (s : State) : State :=
  { s with
    val := v, dm := false, phase := .rel, tmr := 0, waited := 0
    trace := s.trace ++ sent v false (nSetup s.cfg) (nPulse s.cfg) .ok
    delivered := s.delivered ++ [sentFrame v false] }

/-- The state after `m` transmissions and the response, with the samples `l` to come. -/
def State.movesAnswered (v : Byte) (m : Nat) (l : List PortIn) (s : State) : State :=
  { s with
    k := 0#32, stat := .ok, phase := .idle, inputs := l
    val := if 0 < m then v else s.val
    dm := if 0 < m then false else s.dm
    tmr := if 0 < m then 0 else s.tmr
    waited := if 0 < m then 0 else s.waited
    trace := s.trace ++ sentAll v false (List.replicate m (nSetup s.cfg, nPulse s.cfg)) ++ [.rsp .ok]
    delivered := s.delivered ++ List.replicate m (sentFrame v false) }

section
variable {i : Instr} {v : Byte} {n : Int} (hb : moveByte i = some (v, n)) (hwf : i.wellFormed = true)
include hb hwf

/-- With some left to make, the loop makes one transmission and comes to its head again. -/
theorem settleFrom_moveLoop_more {m : Nat} {l : List PortIn} {s : State} (h : MovesLeft i (m + 1) s)
    (hm : m + 1 ≤ 2147483647) (hs : s.ses = false) (hz : s.pin = 0x000#11)
    (hprompt : PromptSamples (transmissionCycles s.cfg) l) :
    settleFrom l (moveLoop (Int.ofNat v.toNat) s) = settleFrom (l.drop (transmissionCycles s.cfg))
      (afterMove (Int.ofNat v.toNat) (s.moveSent v)) := by
  have hne : s.k ≠ 0#32 := h.count ▸ ofNat_ne_zero (Nat.succ_ne_zero m) hm
  rw [moveLoop_more v h.initf hne]
  exact (prompt_tx l { s with val := v, dm := false, phase := .acq } hprompt.1 hprompt.2 rfl hs hz
    (configuring_of_moveByte hb h.reqr)).trans
    (congrArg _ (afterTransmission_moveByte hb hwf (u := s.moveSent v) h.reqr))

/-- The loop with `m` transmissions to make. -/
theorem settleFrom_moveLoop : ∀ {m : Nat} {l : List PortIn} {s : State}, MovesLeft i m s → m ≤ 2147483647 →
    s.ses = false → s.pin = 0x000#11 → PromptSamples (m * transmissionCycles s.cfg + 1) l →
    settleFrom l (moveLoop (Int.ofNat v.toNat) s) =
      s.movesAnswered v m (l.drop (m * transmissionCycles s.cfg + 1))
  | 0, l, s, h, _, _, _, hprompt => by
    have hk : s.k = 0#32 := h.count
    rw [moveLoop_none _ hk, settleFrom_respond .ok s (by simpa using hprompt)]
    simp [State.movesAnswered, respond, sentAll, hk]
  | m + 1, l, s, h, hm, hs, hz, hprompt => by
    have hcycles : (m + 1) * transmissionCycles s.cfg + 1 =
        transmissionCycles s.cfg + (m * transmissionCycles s.cfg + 1) := by ring
    have hsent : MovesLeft i (m + 1) (s.moveSent v) := ⟨h.reqr, h.initf, h.count⟩
    rw [hcycles] at hprompt ⊢
    obtain ⟨hsend, hrest⟩ := PromptSamples.split hprompt
    rw [settleFrom_moveLoop_more hb hwf h hm hs hz hsend, afterMove,
      settleFrom_moveLoop hsent.count_down (Nat.le_of_succ_le hm) hs hz hrest]
    simp [State.movesAnswered, State.moveSent, sentAll, List.replicate_succ]

end

/-- Settles O37: the loop, from its head at acceptance. -/
theorem repeatedCommandsComplete : Obligations.RepeatedCommandsComplete := by
  intro i v n s hb hwf ⟨hp, hs, hz⟩ hi hprompt
  have hleft : MovesLeft i n.toNat ((s.latch (encode i)).setK (moveCount n)) := ⟨rfl, hi, rfl⟩
  rw [exec_eq_settleFrom, start_moveByte hb hi,
    settleFrom_moveLoop hb hwf hleft (toNat_le_of_moveByte hb hwf) hs hz hprompt]
  simp [State.movesAnswered, hp]

/-! ### Any agents -/

/-- The ends R99 leaves a repeated command with `m` transmissions of `v` to make, begun with the trace `tr` and the
delivered list `dl`: all made, or stopped at the first that failed to acquire or to release. -/
def MoveOutcome (c : Config) (v : Byte) (m : Nat) (tr : List Event) (dl : List Frame) (u : State) : Prop :=
  ∃ ts : List (Nat × Nat), (∀ p ∈ ts, LongEnough c p) ∧
    ((ts.length = m ∧ u.stat = .ok ∧ u.k = 0#32 ∧
        u.trace = tr ++ sentAll v false ts ++ [.rsp .ok] ∧
        u.delivered = dl ++ List.replicate m (sentFrame v false)) ∨
     (ts.length < m ∧ u.stat = .deviceUnavailable ∧
        u.trace = tr ++ sentAll v false ts ++ [.acq .fail, .rsp .deviceUnavailable] ∧
        u.delivered = dl ++ List.replicate ts.length (sentFrame v false)) ∨
     (ts.length < m ∧ u.stat = .deviceUnavailable ∧ ∃ t1 t2, LongEnough c (t1, t2) ∧
        u.trace = tr ++ sentAll v false ts ++ sent v false t1 t2 .fail ++ [.rsp .deviceUnavailable] ∧
        u.delivered = dl ++ List.replicate (ts.length + 1) (sentFrame v false)))

/-- Where a repeated command stands: in a transmission, after those with the waits `ts` and with `left` more to
come after it, or ended. -/
inductive MoveRun (c : Config) (i : Instr) (v : Byte) (m : Nat) (tr : List Event) (dl : List Frame) (u : State) :
    Prop where
  | sending (ts : List (Nat × Nat)) (left t1 t2 : Nat) (hlong : ∀ p ∈ ts, LongEnough c p)
      (hm : ts.length + (left + 1) = m) (hleft : MovesLeft i (left + 1) u)
      (h : Sending c v false (tr ++ sentAll v false ts) (dl ++ List.replicate ts.length (sentFrame v false)) t1 t2 u)
  | ended (hp : u.phase = .rsp ∨ u.phase = .idle) (h : MoveOutcome c v m tr dl u)

/-- The samples to come play no part in a transmission. -/
theorem Sending.withInputs {c : Config} {v : Byte} {d : Bool} {tr : List Event} {dl : List Frame} {t1 t2 : Nat}
    {u : State} (h : Sending c v d tr dl t1 t2 u) (l : List PortIn) :
    Sending c v d tr dl t1 t2 { u with inputs := l } :=
  ⟨h.phase, h.val, h.dm, h.cfg, h.session, h.pins, h.trace, h.delivered, h.setup, h.high, h.past⟩

/-- No word is taken in a transmission. -/
theorem Sending.not_takesWord {c : Config} {v : Byte} {d : Bool} {tr : List Event} {dl : List Frame} {t1 t2 : Nat}
    {u : State} (h : Sending c v d tr dl t1 t2 u) : takesWord u.phase = false := by
  have hphase := h.phase
  cases hp : u.phase <;> simp [hp, inTransmission, takesWord] at hphase ⊢

theorem sentAll_snoc (v : Byte) (d : Bool) (ts : List (Nat × Nat)) (t1 t2 : Nat) :
    sentAll v d (ts ++ [(t1, t2)]) = sentAll v d ts ++ sent v d t1 t2 .ok := by
  simp [sentAll]

section
variable {c : Config} {i : Instr} {v : Byte} {m : Nat} {tr : List Event} {dl : List Frame} {u : State}

theorem MoveRun.withInputs (h : MoveRun c i v m tr dl u) (l : List PortIn) :
    MoveRun c i v m tr dl { u with inputs := l } := by
  cases h with
  | sending ts left t1 t2 hlong hm hleft h =>
    exact .sending ts left t1 t2 hlong hm ⟨hleft.reqr, hleft.initf, hleft.count⟩ (h.withInputs l)
  | ended hp h => exact .ended hp h

/-- At the loop head the command is ended, or in its next transmission. -/
theorem MoveRun.of_loopHead {ts : List (Nat × Nat)} {left : Nat} (hmax : m ≤ 2147483647)
    (hlong : ∀ p ∈ ts, LongEnough c p) (hm : ts.length + left = m) (hleft : MovesLeft i left u) (hc : u.cfg = c)
    (hs : u.ses = false) (hz : u.pin = 0x000#11) (htr : u.trace = tr ++ sentAll v false ts)
    (hdl : u.delivered = dl ++ List.replicate ts.length (sentFrame v false)) :
    MoveRun c i v m tr dl (moveLoop (Int.ofNat v.toNat) u) := by
  cases left with
  | zero =>
    rw [moveLoop_none _ hleft.count]
    exact .ended (.inl rfl) ⟨ts, hlong, .inl ⟨hm, rfl, hleft.count, by simp [htr], by simp [hdl, ← hm]⟩⟩
  | succ left =>
    have hne : u.k ≠ 0#32 := hleft.count ▸ ofNat_ne_zero (Nat.succ_ne_zero left) (by omega)
    rw [moveLoop_more v hleft.initf hne]
    refine .sending ts left 0 0 hlong hm ⟨hleft.reqr, hleft.initf, hleft.count⟩ ?_
    rw [← htr, ← hdl, ← hc]
    exact sending_of_acq (u := { u with val := v, dm := false, phase := .acq }) rfl hs hz

variable {n : Int} (hb : moveByte i = some (v, n)) (hwf : i.wellFormed = true)
include hb hwf

/-- An edge of a transmission takes it on, or ends the command, or comes to the loop head with one made (R99). -/
theorem MoveRun.of_sending {ts : List (Nat × Nat)} {left t1 t2 : Nat} (hmax : m ≤ 2147483647)
    (hlong : ∀ p ∈ ts, LongEnough c p) (hm : ts.length + (left + 1) = m) (hleft : MovesLeft i (left + 1) u)
    (h : Sending c v false (tr ++ sentAll v false ts) (dl ++ List.replicate ts.length (sentFrame v false)) t1 t2 u)
    (x : PortIn) : MoveRun c i v m tr dl (advance x u) := by
  have hlt : ts.length < m := by omega
  rcases sending_edge x h fun _ => configuring_of_moveByte hb hleft.reqr with
    ⟨a, b, hsend, hkept⟩ | ⟨-, htr, hdl, -, -, he⟩ | ⟨-, hlast, hdl, hz, he | he⟩
  · exact .sending ts left a b hlong hm
      ⟨hkept.reqr.trans hleft.reqr, hkept.initf.trans hleft.initf, hkept.k.trans hleft.count⟩ hsend
  · rw [he, raise_of_moveByte hb (by exact hleft.reqr)]
    exact .ended (.inl rfl) ⟨ts, hlong, .inr (.inl ⟨hlt, rfl, by simp [htr], hdl⟩)⟩
  · rw [he, raise_of_moveByte hb (by exact hleft.reqr)]
    exact .ended (.inl rfl) ⟨ts, hlong, .inr (.inr ⟨hlt, rfl, t1, t2, hlast, rfl,
      by simp [hdl, List.replicate_succ']⟩)⟩
  · rw [he, afterTransmission_moveByte hb hwf (by exact hleft.reqr), afterMove]
    refine .of_loopHead (ts := ts ++ [(t1, t2)]) (left := left) hmax
      (List.forall_mem_append.2 ⟨hlong, List.forall_mem_singleton.2 hlast⟩) (by simp; omega)
      (MovesLeft.count_down ⟨hleft.reqr, hleft.initf, hleft.count⟩) h.cfg rfl hz ?_ ?_
    · simp [sentAll_snoc]
    · simp [hdl, List.replicate_succ']

/-- Every edge of a busy phase. -/
theorem MoveRun.advance (hmax : m ≤ 2147483647) (h : MoveRun c i v m tr dl u) (x : PortIn)
    (hw : takesWord u.phase = false) : MoveRun c i v m tr dl (advance x u) := by
  cases h with
  | sending ts left t1 t2 hlong hm hleft h => exact .of_sending hb hwf hmax hlong hm hleft h x
  | ended hp h =>
    have hp : u.phase = .rsp := hp.resolve_right fun hp => by simp [hp, takesWord] at hw
    rw [advance_rsp x hp, edgeRsp]
    split
    · exact .ended (.inr rfl) h
    · exact .ended (.inl hp) h

end

/-- Settles O44: the run's invariant, from the loop head at acceptance, read in `P_IDLE`. -/
theorem repeatedCommandOutcomes : Obligations.RepeatedCommandOutcomes := by
  intro i v n s t hb hwf ⟨_, hs, hz⟩ hi hr hexec hp
  have hmax := toNat_le_of_moveByte hb hwf
  have hrun : MoveRun s.cfg i v n.toNat s.trace s.delivered t := by
    refine exec_induct hexec hr (fun u l h => h.withInputs l) (fun x u hw h => h.advance hb hwf hmax x hw) ?_
    rw [start_moveByte hb hi]
    exact .of_loopHead (ts := []) hmax (by simp) (Nat.zero_add _) ⟨rfl, hi, rfl⟩ rfl hs hz (by simp [sentAll])
      (by simp)
  cases hrun with
  | sending ts left t1 t2 _ _ _ h => simpa [hp, takesWord] using h.not_takesWord
  | ended _ h => exact h

end Sys2Proof.Machine

/-! ## O46: a character of a string, whatever the agents do

Delivered, it comes to the loop head; its session failed, to an error. Either waits for the next word while `K` counts
one (`P_PAYLOAD`, `P_DRAIN`), and answers after the last. -/

namespace Sys2Proof.Machine

/-- The string after the trace `tr`: its next word is waited for in the phase `wait`, or none is left and the answer
is `code`. -/
def WordOutcome (wait : Phase) (code : Status) (tr : List Event) (u : State) : Prop :=
  (u.k ≠ 0#32 ∧ u.phase = wait ∧ u.trace = tr) ∨
  (u.k = 0#32 ∧ (u.phase = .rsp ∨ u.phase = .idle) ∧ u.stat = code ∧ u.trace = tr ++ [.rsp code])

theorem wordOutcome_textLoop (s : State) : WordOutcome .payload .ok s.trace (textLoop s) := by
  unfold textLoop; split
  · next hk => exact .inr ⟨hk, .inl rfl, rfl, rfl⟩
  · next hk => exact .inl ⟨hk, rfl, rfl⟩

theorem wordOutcome_raise {s : State} (c : Status) (hb : inBurst s = true) :
    WordOutcome .drain c s.trace (raise c s) := by
  rcases raise_cases c s with ⟨-, hk, he⟩ | ⟨hk, he⟩ <;> rw [he]
  · exact .inl ⟨hk, rfl, rfl⟩
  · exact .inr ⟨hk.resolve_left (by simp [hb]), .inl rfl, rfl, rfl⟩

theorem textLoop_k (s : State) : (textLoop s).k = s.k := by
  unfold textLoop; split <;> rfl

theorem raise_stat (c : Status) (s : State) : (raise c s).stat = c := by
  rcases raise_cases c s with ⟨-, -, he⟩ | ⟨-, he⟩ <;> simp [he]

theorem WordOutcome.phase {wait : Phase} {code : Status} {tr : List Event} {u : State}
    (h : WordOutcome wait code tr u) (hwait : takesWord wait = true) : u.phase = .rsp ∨ takesWord u.phase = true := by
  rcases h with ⟨-, hp, -⟩ | ⟨-, hp | hp, -⟩
  · exact .inr (hp ▸ hwait)
  · exact .inl hp
  · exact .inr (by rw [hp]; rfl)

/-- The response taken, `P_IDLE` is entered and the answer stands. -/
theorem WordOutcome.acceptResponse {wait : Phase} {code : Status} {tr : List Event} {u : State}
    (h : WordOutcome wait code tr u) (hp : u.phase = .rsp) (hwait : takesWord wait = true) :
    WordOutcome wait code tr (acceptResponse u) := by
  rcases h with ⟨-, hw, -⟩ | ⟨hk, -, hstat, htr⟩
  · rw [← hw, hp] at hwait
    cases hwait
  · exact .inr ⟨hk, .inr rfl, hstat, htr⟩

/-- In a phase that takes a word, told by `K` before the word was counted. -/
theorem WordOutcome.of_takesWord {wait : Phase} {code : Status} {tr : List Event} {u : State} {k : Arg}
    (h : WordOutcome wait code tr u) (hw : takesWord u.phase = true) (hk : u.k = k - 1#32) :
    (k ≠ 1#32 ∧ u.phase = wait ∧ u.trace = tr) ∨
    (k = 1#32 ∧ u.phase = .idle ∧ u.stat = code ∧ u.trace = tr ++ [.rsp code]) := by
  have hlast : u.k = 0#32 ↔ k = 1#32 := by rw [hk, sub_one_eq_zero_iff]
  rcases h with ⟨hleft, hwait⟩ | ⟨hnone, hp, hend⟩
  · exact .inl ⟨mt hlast.2 hleft, hwait⟩
  · exact .inr ⟨hlast.1 hnone, hp.resolve_left fun hp => by simp [hp, takesWord] at hw, hend⟩

/-- The ends R98 and R99 leave a character `v`, begun with the trace `tr` and the delivered list `dl`: delivered, or
failed to acquire or to release. -/
def CharOutcome (c : Config) (v : Byte) (tr : List Event) (dl : List Frame) (u : State) : Prop :=
  (∃ t1 t2, LongEnough c (t1, t2) ∧ u.delivered = dl ++ [sentFrame v true] ∧
    WordOutcome .payload .ok (tr ++ sent v true t1 t2 .ok) u) ∨
  (u.stat = .deviceUnavailable ∧ ∃ es,
    ((es = [.acq .fail] ∧ u.delivered = dl) ∨
     (∃ t1 t2, LongEnough c (t1, t2) ∧ es = sent v true t1 t2 .fail ∧ u.delivered = dl ++ [sentFrame v true])) ∧
    WordOutcome .drain .deviceUnavailable (tr ++ es) u)

/-- Where a character stands, with `k` words left after it: in its transmission, or dealt with. -/
inductive CharRun (c : Config) (v : Byte) (k : Arg) (tr : List Event) (dl : List Frame) (u : State) : Prop where
  | sending (t1 t2 : Nat) (hk : u.k = k) (h : Sending c v true tr dl t1 t2 u)
  | ended (hk : u.k = k) (h : CharOutcome c v tr dl u)

section
variable {c : Config} {v : Byte} {k : Arg} {tr : List Event} {dl : List Frame} {u : State}

theorem CharOutcome.phase (h : CharOutcome c v tr dl u) : u.phase = .rsp ∨ takesWord u.phase = true := by
  rcases h with ⟨_, _, -, -, hend⟩ | ⟨-, _, -, hend⟩
  · exact hend.phase rfl
  · exact hend.phase rfl

theorem CharOutcome.acceptResponse (h : CharOutcome c v tr dl u) (hp : u.phase = .rsp) :
    CharOutcome c v tr dl (acceptResponse u) := by
  rcases h with ⟨t1, t2, hlong, hdl, hend⟩ | ⟨hstat, es, hes, hend⟩
  · exact .inl ⟨t1, t2, hlong, hdl, hend.acceptResponse hp rfl⟩
  · exact .inr ⟨hstat, es, hes, hend.acceptResponse hp rfl⟩

theorem CharRun.withInputs (h : CharRun c v k tr dl u) (l : List PortIn) :
    CharRun c v k tr dl { u with inputs := l } := by
  cases h with
  | sending t1 t2 hk h => exact .sending t1 t2 hk (h.withInputs l)
  | ended hk h => exact .ended hk h

/-- The transmission made, the character is delivered (R98). -/
theorem charOutcome_textLoop {t1 t2 : Nat} (hlong : LongEnough c (t1, t2))
    (hdl : u.delivered = dl ++ [sentFrame v true]) (htr : u.trace = tr ++ sent v true t1 t2 .ok) :
    CharOutcome c v tr dl (textLoop u) :=
  .inl ⟨t1, t2, hlong, (textLoop_same u).delivered.trans hdl, htr ▸ wordOutcome_textLoop u⟩

/-- Its session failed, after the events `es`, the string ends (R99). -/
theorem charOutcome_raise {es : List Event} (hb : inBurst u = true) (htr : u.trace = tr ++ es)
    (hes : (es = [.acq .fail] ∧ u.delivered = dl) ∨
      (∃ t1 t2, LongEnough c (t1, t2) ∧ es = sent v true t1 t2 .fail ∧ u.delivered = dl ++ [sentFrame v true])) :
    CharOutcome c v tr dl (raise .deviceUnavailable u) := by
  refine .inr ⟨raise_stat .., es, ?_, htr ▸ wordOutcome_raise _ hb⟩
  rw [(raise_same _ u).delivered]
  exact hes

/-- An edge of the transmission takes it on, or ends it: in the loop head, or in an error (R98, R99). -/
theorem CharRun.of_sending {t1 t2 : Nat} (hb : inBurst u = true) (hk : u.k = k) (h : Sending c v true tr dl t1 t2 u)
    (x : PortIn) : CharRun c v k tr dl (advance x u) := by
  rcases sending_edge x h fun _ => configuring_of_inBurst hb with
    ⟨a, b, hsend, hkept⟩ | ⟨-, htr, hdl, -, -, he⟩ | ⟨-, hlong, hdl, -, he | he⟩
  · exact .sending a b (hkept.k.trans hk) hsend
  all_goals rw [he]
  · exact .ended ((raise_k ..).trans hk)
      (charOutcome_raise hb (by rw [← htr]; rfl) (.inl ⟨rfl, hdl⟩))
  · exact .ended ((raise_k ..).trans hk) (charOutcome_raise hb rfl (.inr ⟨t1, t2, hlong, rfl, hdl⟩))
  · rw [afterTransmission_text (by exact hb)]
    exact .ended ((textLoop_k _).trans hk) (charOutcome_textLoop hlong hdl rfl)

/-- Every edge of a busy phase. -/
theorem CharRun.advance (hb : inBurst u = true) (h : CharRun c v k tr dl u) (x : PortIn)
    (hw : takesWord u.phase = false) : CharRun c v k tr dl (advance x u) := by
  cases h with
  | sending t1 t2 hk h => exact .of_sending hb hk h x
  | ended hk h =>
    have hp : u.phase = .rsp := h.phase.resolve_right (by simp [hw])
    rw [advance_rsp x hp, edgeRsp]
    split
    · exact .ended hk (h.acceptResponse hp)
    · exact .ended hk h

end

/-- The word in `REQR` tells a burst (R16). -/
theorem inBurst_congr {s u : State} (h : u.reqr = s.reqr) : inBurst u = inBurst s := by
  unfold inBurst; rw [h]

/-- Settles O46: the run's invariant, read in a phase that takes a word. -/
theorem characterOutcomes : Obligations.CharacterOutcomes := by
  intro c s t h0 h255 ⟨hph, hs, hz, hb, _⟩ hr hexec hw
  have hc : inByteRange c = true := by simp [inByteRange, h0, h255]
  obtain ⟨hreq, hrun⟩ : t.reqr = s.reqr ∧ CharRun s.cfg (byteOf c) (s.k - 1#32) s.trace s.delivered t := by
    refine exec_induct (P := fun u => u.reqr = s.reqr ∧ CharRun s.cfg (byteOf c) (s.k - 1#32) s.trace s.delivered u)
      hexec hr (fun u l ⟨hreq, h⟩ => ⟨hreq, h.withInputs l⟩) (fun x u hbusy ⟨hreq, h⟩ => ?_) ?_
    · exact ⟨(advance_reqr x u).trans hreq, h.advance ((inBurst_congr hreq).trans hb) x hbusy⟩
    · rw [start_chr_inRange hc hph]
      exact ⟨rfl, .sending 0 0 rfl (sending_of_acq
        (u := { s with k := s.k - 1#32, val := byteOf c, dm := true, phase := .acq }) rfl hs hz)⟩
  cases hrun with
  | sending t1 t2 _ h => simp [h.not_takesWord] at hw
  | ended hk h =>
    refine ⟨hk, hreq, ?_⟩
    rcases h with ⟨t1, t2, hlong, hdl, hend⟩ | ⟨hstat, es, hes, hend⟩
    · exact .inl ⟨t1, t2, hlong, hdl, hend.of_takesWord hw hk⟩
    · exact .inr ⟨hstat, es, hes,
        (hend.of_takesWord hw hk).imp_right fun ⟨hlast, hp, _, htr⟩ => ⟨hlast, hp, htr⟩⟩

end Sys2Proof.Machine

/-! ## O19: the mode

`INITF` is written by the edge that ends an `INIT` (`advance_initf`); that edge is a release answered `ok`. -/

namespace Sys2Proof.Machine

/-- Without a release answered `ok` the sequencer leaves the mode alone (R105). -/
theorem advance_initf_of_unreleased {x : PortIn} {s : State}
    (h : ¬(s.phase = .rel ∧ relAnswer x.gpio false = some .ok)) : (advance x s).initf = s.initf := by
  rcases advance_cases x s with hb | ⟨-, he⟩ | ⟨-, he⟩ | ⟨hp, he⟩ | ⟨-, he⟩
  · exact (advance_beforeRelease x hb).1
  all_goals rw [he]
  · unfold edgeAcq; split
    · rfl
    · exact raise_initf ..
    · rfl
  · unfold edgeRel; split
    · rfl
    · exact raise_initf ..
    · next ha => exact absurd ⟨hp, by simpa [hp, wantsSession] using ha⟩ h
  · unfold edgeRsp; split <;> rfl

/-- The one edge of the block that sets `INITF` is the sequencer's, at the end of an `INIT` (R105). -/
theorem clockEdge_initf {x : PortIn} (s : State) (hr : x.rst = false) :
    (clockEdge x s).initf = s.initf ∨ (clockEdge x s = advance x s ∧ decodeHeader s.reqr = .ok .init ∧
      (advance x s).initf = true ∧ (advance x s).stat = .ok ∧ (advance x s).phase = .rsp) := by
  rcases clockEdge_cases s hr with ⟨-, i, -, h⟩ | ⟨-, h⟩ | h <;> rw [h]
  · exact .inl (start_initf i s)
  · exact .inl rfl
  · exact (advance_initf x s).imp_right fun hset => ⟨rfl, hset⟩

/-- Settles O19: an edge that does not keep the mode is a reset, or the one that ends an `INIT`. -/
theorem onlyInitInitialises : Obligations.OnlyInitInitialises := by
  refine ⟨fun x s hr => by simp [clockEdge, hr], fun x s hr hi => ?_, fun x s hi ht => ?_⟩
  · rcases clockEdge_initf s hr with h | ⟨he, -, h, -⟩
    · rw [h, hi]
    · rw [he, h]
  · have hr : x.rst = false := by
      by_contra hr
      rw [clockEdge, if_pos (by simpa using hr)] at ht
      cases ht
    obtain ⟨he, hd, hset, hstat, hp⟩ := (clockEdge_initf s hr).resolve_left (by simp [hi, ht])
    have hrel : s.phase = .rel ∧ relAnswer x.gpio false = some .ok := by
      by_contra hrel
      simp [advance_initf_of_unreleased hrel, hi] at hset
    rw [he]
    exact ⟨hrel.1, hd, hrel.2, hstat, hp⟩

end Sys2Proof.Machine

/-! ## O34: the guard -/

namespace Sys2Proof.Machine

/-- Before `INIT` a request without payload words is answered at acceptance (R106). -/
theorem start_refused {i : Instr} {s : State} (hi : s.initf = false) (hhead : i.isHeader = true) (hinit : i ≠ .init)
    (hwrs : ∀ len, i ≠ .wrs len) : start i s = respond .notInitialized (s.latch (encode i)) := by
  cases i with
  | init => exact absurd rfl hinit
  | clr | home | fmt | disp | pos | tx => exact guarded_refused hi (by simp [encodeOp])
  | cur n => exact start_counted_refused hi (.inl ⟨n, rfl⟩)
  | cul n => exact start_counted_refused hi (.inr (.inl ⟨n, rfl⟩))
  | wrs len => exact absurd rfl (hwrs len)
  | chr => cases hhead

/-- Before `INIT` a string's words are counted for the drain (R98, R106). -/
theorem start_wrs_refused {len : Int} {s : State} (hi : s.initf = false) (hpos : 0 < len) (hfits : fitsArg len = true) :
    start (.wrs len) s =
      { s.latch (encode (.wrs len)) with k := BitVec.ofInt 32 len, stat := .notInitialized, phase := .drain } := by
  have hk : textCount len ≠ 0#32 := ofNat_ne_zero (by omega) (by simp [fitsArg] at hfits; omega)
  rw [start, startWrs, guardOr_off (by simpa using hi), drainThen, if_neg hk, textCount_eq_ofInt hpos.le]

/-- Settles O34: the accepting edge answers, or leaves a non-empty string its words to drain. -/
theorem guardRefusesBeforeInit : Obligations.GuardRefusesBeforeInit := by
  intro i s hi hwf hhead hinit
  rw [exec_eq_settle_start]
  cases i with
  | wrs len =>
    obtain ⟨hfits, hnonneg⟩ : fitsArg len = true ∧ 0 ≤ len := by simpa [Instr.wellFormed] using hwf
    by_cases hz : len = 0
    · subst hz
      rw [start_counted_refused hi (.inr (.inr rfl))]
      rfl
    · rw [start_wrs_refused hi (by omega) hfits]
      simp [hz, State.latch]
  | init | clr | home | fmt | disp | cur | cul | pos | tx | chr =>
    rw [start_refused hi hhead hinit (by simp)]
    rfl

end Sys2Proof.Machine

/-! ## O38, O45: `INIT`

The session of its steps 1 to 3, and then two transmissions, each after the release of the session before (R107):
`K` tells them apart. -/

namespace Sys2Proof.Machine

section
variable {u : State} (hreq : u.reqr = encode .init)
include hreq

/-- `K` tells whether the session is that of steps 1 to 3. -/
theorem configuring_of_init : configuring u = decide (u.k = configSession) := by
  simp [configuring, hreq, decode_encode_init]

/-- An error in `INIT` is answered at once. -/
theorem raise_of_init (c : Status) : raise c u = respond c u :=
  raise_single (inBurst_of_latched hreq (by simp [encodeOp]))

theorem afterTransmission_of_init : afterTransmission u = afterInit u := by
  simp [afterTransmission, hreq, decode_encode_init]

end

/-- `INIT` asks for the session of a transmission of `v`, told by `K` (R107). -/
def State.initSends (n : Arg) (v : Byte) (u : State) : State :=
  { u with k := n, val := v, dm := false, phase := .acq }

/-- After steps 1 to 3 comes the byte of `ClearScreen`. -/
theorem afterInit_configured {u : State} (hk : u.k = configSession) : afterInit u = u.initSends 2#32 0x01#8 := by
  rw [afterInit, if_pos hk, transmit_inRange _ _ inByteRange_clr, byteOf_clr]
  rfl

/-- After `ClearScreen`'s byte comes that of `Home`. -/
theorem afterInit_cleared {u : State} (hk : u.k = 2#32) : afterInit u = u.initSends 1#32 0x02#8 := by
  rw [afterInit, if_neg (by simp [hk, configSession]), if_pos hk, transmit_inRange _ _ inByteRange_home, byteOf_home]
  rfl

/-- After both bytes the machine is initialised and answers `OK`. -/
theorem afterInit_homed {u : State} (hk : u.k = 1#32) : afterInit u = respond .ok { u with initf := true } := by
  rw [afterInit, if_neg (by simp [hk, configSession]), if_neg (by simp [hk])]

/-! ### Prompt agents -/

/-- The state in which the session of steps 1 to 3 has been answered. -/
def State.initConfigured (s : State) : State :=
  { s with phase := .rel, oe := 0x7FF#11, trace := s.trace ++ configured .ok }

/-- The state in which a transmission of `INIT` has been answered. -/
def State.initSent (n : Arg) (v : Byte) (s : State) : State :=
  { s with
    k := n, val := v, dm := false, phase := .rel, tmr := 0, waited := 0
    trace := s.trace ++ sent v false (nSetup s.cfg) (nPulse s.cfg) .ok
    delivered := s.delivered ++ [sentFrame v false] }

/-- The session of steps 1 to 3 with prompt agents. -/
theorem prompt_configuration {l : List PortIn} {s : State} (h : PromptSamples 4 l) (hp : s.phase = .acq)
    (hs : s.ses = false) (hz : s.pin = 0x000#11) (hreq : s.reqr = encode .init) (hk : s.k = configSession) :
    settleFrom l s = settleFrom (l.drop 4) (s.initConfigured.initSends 2#32 0x01#8) := by
  have hnext : s.initConfigured.initSends 2#32 0x01#8 = afterTransmission s.initConfigured := by
    rw [afterTransmission_of_init (u := s.initConfigured) hreq, afterInit_configured (u := s.initConfigured) hk]
  obtain ⟨hlen, hprompt⟩ := h
  match l, hlen with
  | a :: b :: c :: d :: rest, _ =>
    simp only [List.take_succ_cons, List.take_zero, List.forall_mem_cons, prompt_iff] at hprompt
    obtain ⟨⟨har, -, -, hag⟩, ⟨hbr, hbl, -, -⟩, ⟨hcr, hcl, -, -⟩, ⟨hdr, -, -, hdg⟩, -⟩ := hprompt
    -- `P_ACQ`
    rw [settleFrom_busy _ _ (by simp [hp, takesWord]), show busyEdge a s =
      { s with ses := true, trace := s.trace ++ [.acq .ok], phase := .cfgoe } by
        simp [busyEdge, har, advance, hp, edgeAcq, wantsSession, hag, configuring_of_init hreq, hk]]
    -- `P_CFGOE`
    rw [settleFrom_busy _ _ rfl]
    simp only [busyEdge, hbr, advance, edgeCfgoe, hbl, Bool.false_eq_true, if_false]
    rw [enableOutputs_open rfl]
    -- `P_CFGLOW`
    rw [settleFrom_busy _ _ rfl]
    simp only [busyEdge, hcr, advance, edgeCfglow, State.goto, hcl, Bool.false_eq_true, if_false]
    rw [pinWrite_open _ rfl]
    -- `P_REL`
    rw [settleFrom_busy _ _ rfl]
    simp only [busyEdge, hdr, advance, edgeRel, wantsSession, hdg, relAnswer_tied, Bool.false_eq_true, if_false]
    rw [hnext]
    simp [State.initConfigured, configured, hs, hz]

/-- A transmission of `INIT` with prompt agents. -/
theorem prompt_initSends {c : Config} {l : List PortIn} {n : Arg} {v : Byte} {s : State} (hcfg : s.cfg = c)
    (h : PromptSamples (transmissionCycles c) l) (hreq : s.reqr = encode .init) (hn : n ≠ configSession)
    (hs : s.ses = false) (hz : s.pin = 0x000#11) :
    settleFrom l (s.initSends n v) = settleFrom (l.drop (transmissionCycles c)) (afterInit (s.initSent n v)) := by
  subst hcfg
  have hc : configuring (s.initSends n v) = false := by simp [configuring_of_init, State.initSends, hreq, hn]
  exact (prompt_tx l (s.initSends n v) h.1 h.2 rfl hs hz hc).trans
    (congrArg _ (afterTransmission_of_init (u := s.initSent n v) hreq))

/-- Settles O38: the configuration, the two transmissions and the response. -/
theorem initCompletes : Obligations.InitCompletes := by
  intro s ⟨hp, hs, hz⟩ hprompt
  have hcycles : 4 + 2 * transmissionCycles s.cfg + 1 =
      4 + (transmissionCycles s.cfg + (transmissionCycles s.cfg + 1)) := by ring
  rw [hcycles] at hprompt ⊢
  obtain ⟨hconfig, hprompt⟩ := PromptSamples.split hprompt
  obtain ⟨hclear, hprompt⟩ := PromptSamples.split hprompt
  obtain ⟨hhome, hrsp⟩ := PromptSamples.split hprompt
  have hconfigured : (startInit s).initConfigured.cfg = s.cfg := rfl
  have hcleared : ((startInit s).initConfigured.initSent 2#32 0x01#8).cfg = s.cfg := rfl
  rw [exec_eq_settleFrom, start, prompt_configuration (s := startInit s) hconfig rfl hs hz rfl rfl,
    prompt_initSends hconfigured hclear rfl (by decide) hs hz, afterInit_cleared rfl,
    prompt_initSends hcleared hhome rfl (by decide) hs hz, afterInit_homed rfl, settleFrom_respond _ _ hrsp]
  simp [respond, State.initSent, State.initConfigured, startInit, State.goto, State.setK, State.latch, hp,
    Nat.add_assoc]

/-! ### Any agents -/

/-- The ends R107 and R109 leave an `INIT` begun in `s`: one of the six failing answers, or completed. -/
def InitOutcome (s t : State) : Prop :=
  ∃ es fs, t.trace = s.trace ++ es ++ [.rsp t.stat] ∧ t.delivered = s.delivered ++ fs ∧
    ((t.stat = .deviceUnavailable ∧ t.oe = s.oe ∧ t.initf = s.initf ∧ es = [.acq .fail] ∧ fs = []) ∨
     (t.stat = .deviceUnavailable ∧ t.oe = 0x7FF#11 ∧ t.initf = s.initf ∧ es = configured .fail ∧ fs = []) ∨
     (t.stat = .deviceUnavailable ∧ t.oe = 0x7FF#11 ∧ t.initf = s.initf ∧
        es = configured .ok ++ [.acq .fail] ∧ fs = []) ∨
     (∃ a b, LongEnough s.cfg (a, b) ∧ t.stat = .deviceUnavailable ∧ t.oe = 0x7FF#11 ∧ t.initf = s.initf ∧
        es = configured .ok ++ sent 0x01#8 false a b .fail ∧ fs = [sentFrame 0x01#8 false]) ∨
     (∃ a b, LongEnough s.cfg (a, b) ∧ t.stat = .deviceUnavailable ∧ t.oe = 0x7FF#11 ∧ t.initf = s.initf ∧
        es = configured .ok ++ sent 0x01#8 false a b .ok ++ [.acq .fail] ∧ fs = [sentFrame 0x01#8 false]) ∨
     (∃ a b c d r, LongEnough s.cfg (a, b) ∧ LongEnough s.cfg (c, d) ∧ t.oe = 0x7FF#11 ∧
        t.stat = (if r = .ok then .ok else .deviceUnavailable) ∧
        t.initf = (if r = .ok then true else s.initf) ∧
        es = configured .ok ++ sent 0x01#8 false a b .ok ++ sent 0x02#8 false c d r ∧
        fs = [sentFrame 0x01#8 false, sentFrame 0x02#8 false]))

/-- The events of steps 1 to 3 up to where they stand in a phase. -/
def configuredSoFar : Phase → List Event
  | .cfgoe => [.acq .ok]
  | .cfglow => [.acq .ok, .oe 0x7FF#11]
  | .rel => [.acq .ok, .oe 0x7FF#11, .pin 0x000#11]
  | .idle | .payload | .drain | .acq | .select | .drive | .setup | .high | .fall | .reset | .rsp => []

/-- `INIT`, begun in `s`, in the session of its steps 1 to 3 (R107). -/
structure Configuring (s u : State) : Prop where
  phase : u.phase = .acq ∨ u.phase = .cfgoe ∨ u.phase = .cfglow ∨ u.phase = .rel
  k : u.k = configSession
  initf : u.initf = s.initf
  oe : u.oe = if u.phase = .acq ∨ u.phase = .cfgoe then s.oe else 0x7FF#11
  trace : u.trace = s.trace ++ configuredSoFar u.phase
  delivered : u.delivered = s.delivered

/-- `INIT`, begun in `s`, in a transmission of `v` told by `K`: the lines are enabled, the mode is not yet set. -/
structure InitSending (s : State) (n : Arg) (v : Byte) (tr : List Event) (dl : List Frame) (t1 t2 : Nat) (u : State) :
    Prop where
  k : u.k = n
  initf : u.initf = s.initf
  oe : u.oe = 0x7FF#11
  sending : Sending s.cfg v false tr dl t1 t2 u

/-- Where an `INIT` begun in `s` stands: in steps 1 to 3, in one of its two transmissions, or ended. -/
inductive InitRun (s u : State) : Prop where
  | configuring (h : Configuring s u)
  | clearing (t1 t2 : Nat)
      (h : InitSending s 2#32 0x01#8 (s.trace ++ configured .ok) s.delivered t1 t2 u)
  | homing (a b t1 t2 : Nat) (hlong : LongEnough s.cfg (a, b))
      (h : InitSending s 1#32 0x02#8 (s.trace ++ configured .ok ++ sent 0x01#8 false a b .ok)
        (s.delivered ++ [sentFrame 0x01#8 false]) t1 t2 u)
  | ended (hp : u.phase = .rsp ∨ u.phase = .idle) (h : InitOutcome s u)

section
variable {s u : State}

theorem Configuring.withInputs (h : Configuring s u) (l : List PortIn) : Configuring s { u with inputs := l } :=
  ⟨h.phase, h.k, h.initf, h.oe, h.trace, h.delivered⟩

theorem Configuring.not_takesWord (h : Configuring s u) : takesWord u.phase = false := by
  rcases h.phase with hp | hp | hp | hp <;> rw [hp] <;> rfl

section
variable {n : Arg} {v : Byte} {tr : List Event} {dl : List Frame} {t1 t2 : Nat}

theorem InitSending.withInputs (h : InitSending s n v tr dl t1 t2 u) (l : List PortIn) :
    InitSending s n v tr dl t1 t2 { u with inputs := l } :=
  ⟨h.k, h.initf, h.oe, h.sending.withInputs l⟩

/-- A transmission of `INIT` begins where the session before it has been released. -/
theorem initSending_of_released (hc : u.cfg = s.cfg) (hi : u.initf = s.initf) (hoe : u.oe = 0x7FF#11)
    (hz : u.pin = 0x000#11) :
    InitSending s n v tr u.delivered 0 0 (State.initSends n v { u with ses := false, trace := tr }) :=
  ⟨rfl, hi, hoe, hc ▸ sending_of_acq (u := State.initSends n v { u with ses := false, trace := tr }) rfl rfl hz⟩

end

theorem InFlight.withInputs {w : ReqWord} (h : InFlight s w u) (l : List PortIn) :
    InFlight s w { u with inputs := l } :=
  ⟨⟨h.lines.session, h.lines.pins⟩, h.cfg, h.draws, h.reqr⟩

theorem InitRun.withInputs (h : InitRun s u) (l : List PortIn) : InitRun s { u with inputs := l } := by
  cases h with
  | configuring h => exact .configuring (h.withInputs l)
  | clearing t1 t2 h => exact .clearing t1 t2 (h.withInputs l)
  | homing a b t1 t2 hlong h => exact .homing a b t1 t2 hlong (h.withInputs l)
  | ended hp h => exact .ended hp h

variable (hfl : InFlight s (encode .init) u) (x : PortIn)
include hfl

/-! #### The session of steps 1 to 3 -/

theorem Configuring.edgeAcq (h : Configuring s u) (hp : u.phase = .acq) : InitRun s (edgeAcq x u) := by
  have htr : u.trace = s.trace := by simpa [hp, configuredSoFar] using h.trace
  have hoe : u.oe = s.oe := by simpa [hp] using h.oe
  unfold Machine.edgeAcq; split
  · exact .configuring h
  · rw [raise_of_init (by exact hfl.reqr)]
    exact .ended (.inl rfl) ⟨[.acq .fail], [], by simp [State.emit, htr], by simp [State.emit, h.delivered],
      .inl ⟨rfl, hoe, h.initf, rfl, rfl⟩⟩
  · refine .configuring ?_
    rw [configuring_of_init hfl.reqr, h.k]
    exact ⟨.inr (.inl rfl), rfl, h.initf, hoe, congrArg (· ++ [.acq .ok]) htr, h.delivered⟩

theorem Configuring.edgeCfgoe (h : Configuring s u) (hp : u.phase = .cfgoe) : Configuring s (edgeCfgoe x u) := by
  unfold Machine.edgeCfgoe; split
  · exact h
  · rw [enableOutputs_open (hfl.lines.session_at hp)]
    exact ⟨.inr (.inr (.inl rfl)), h.k, h.initf, rfl, by simp [State.goto, h.trace, hp, configuredSoFar],
      h.delivered⟩

theorem Configuring.edgeCfglow (h : Configuring s u) (hp : u.phase = .cfglow) : Configuring s (edgeCfglow x u) := by
  have hoe : u.oe = 0x7FF#11 := by simpa [hp] using h.oe
  unfold Machine.edgeCfglow; split
  · exact h
  · rw [pinWrite_open _ (hfl.lines.session_at hp)]
    exact ⟨.inr (.inr (.inr rfl)), h.k, h.initf, hoe, by simp [State.goto, h.trace, hp, configuredSoFar],
      h.delivered⟩

theorem Configuring.edgeRel (h : Configuring s u) (hp : u.phase = .rel) : InitRun s (edgeRel x u) := by
  have htr : ∀ a, u.trace ++ [.rel a] = s.trace ++ configured a := by
    simp [h.trace, hp, configuredSoFar, configured]
  have hoe : u.oe = 0x7FF#11 := by simpa [hp] using h.oe
  have hz : u.pin = 0x000#11 := by simp [hfl.lines.pins, phasePins, hp]
  unfold Machine.edgeRel; split
  · exact .configuring h
  · rw [raise_of_init (by exact hfl.reqr)]
    exact .ended (.inl rfl) ⟨configured .fail, [], by simp [htr], by simp [h.delivered],
      .inr (.inl ⟨rfl, hoe, h.initf, rfl, rfl⟩)⟩
  · rw [afterTransmission_of_init (by exact hfl.reqr), afterInit_configured (by exact h.k), htr]
    refine .clearing 0 0 ?_
    rw [← h.delivered]
    exact initSending_of_released hfl.cfg h.initf hoe hz

theorem Configuring.advance (h : Configuring s u) : InitRun s (advance x u) := by
  rcases h.phase with hp | hp | hp | hp <;> simp only [Machine.advance, hp]
  · exact h.edgeAcq hfl x hp
  · exact .configuring (h.edgeCfgoe hfl x hp)
  · exact .configuring (h.edgeCfglow hfl x hp)
  · exact h.edgeRel hfl x hp

/-! #### The two transmissions -/

/-- What an edge makes of a transmission of `INIT` (R76, R107). -/
theorem InitSending.advance_cases {n : Arg} {v : Byte} {tr : List Event} {dl : List Frame} {t1 t2 : Nat}
    (h : InitSending s n v tr dl t1 t2 u) (hn : n ≠ configSession) :
    (∃ a b, InitSending s n v tr dl a b (advance x u)) ∨
    (u.delivered = dl ∧
      advance x u = respond .deviceUnavailable { u with trace := tr ++ [.acq .fail] }) ∨
    (LongEnough s.cfg (t1, t2) ∧ u.delivered = dl ++ [sentFrame v false] ∧ u.pin = 0x000#11 ∧
      (advance x u = respond .deviceUnavailable { u with ses := false, trace := tr ++ sent v false t1 t2 .fail } ∨
       advance x u = afterInit { u with ses := false, trace := tr ++ sent v false t1 t2 .ok })) := by
  have hc : configuring u = false := by simp [configuring_of_init hfl.reqr, h.k, hn]
  rcases sending_edge x h.sending fun _ => hc with
    ⟨a, b, hsend, hkept⟩ | ⟨-, htr, hdl, -, -, he⟩ | ⟨-, hlong, hdl, hz, he | he⟩
  · exact .inl ⟨a, b, hkept.k.trans h.k, hkept.initf.trans h.initf, hkept.oe.trans h.oe, hsend⟩
  · rw [raise_of_init (by exact hfl.reqr)] at he
    exact .inr (.inl ⟨hdl, by rw [he, ← htr]; rfl⟩)
  · rw [raise_of_init (by exact hfl.reqr)] at he
    exact .inr (.inr ⟨hlong, hdl, hz, .inl he⟩)
  · rw [afterTransmission_of_init (by exact hfl.reqr)] at he
    exact .inr (.inr ⟨hlong, hdl, hz, .inr he⟩)

/-- The transmission of `ClearScreen`'s byte. -/
theorem InitRun.of_clearing {t1 t2 : Nat}
    (h : InitSending s 2#32 0x01#8 (s.trace ++ configured .ok) s.delivered t1 t2 u) : InitRun s (advance x u) := by
  rcases h.advance_cases hfl x (by decide) with ⟨a, b, hsend⟩ | ⟨hdl, he⟩ | ⟨hlong, hdl, hz, he | he⟩
  · exact .clearing a b hsend
  all_goals rw [he]
  · exact .ended (.inl rfl) ⟨_, [], by simp, by simp [hdl], .inr (.inr (.inl ⟨rfl, h.oe, h.initf, rfl, rfl⟩))⟩
  · exact .ended (.inl rfl) ⟨_, _, by simp, hdl,
      .inr (.inr (.inr (.inl ⟨t1, t2, hlong, rfl, h.oe, h.initf, rfl, rfl⟩)))⟩
  · rw [afterInit_cleared (by exact h.k)]
    refine .homing t1 t2 0 0 hlong ?_
    rw [← hdl]
    exact initSending_of_released hfl.cfg h.initf h.oe hz

/-- The transmission of `Home`'s byte, after that of `ClearScreen`'s. -/
theorem InitRun.of_homing {a b t1 t2 : Nat} (hfirst : LongEnough s.cfg (a, b))
    (h : InitSending s 1#32 0x02#8 (s.trace ++ configured .ok ++ sent 0x01#8 false a b .ok)
      (s.delivered ++ [sentFrame 0x01#8 false]) t1 t2 u) : InitRun s (advance x u) := by
  rcases h.advance_cases hfl x (by decide) with ⟨c, d, hsend⟩ | ⟨hdl, he⟩ | ⟨hlong, hdl, -, he | he⟩
  · exact .homing a b c d hfirst hsend
  all_goals rw [he]
  · exact .ended (.inl rfl) ⟨_, _, by simp, hdl,
      .inr (.inr (.inr (.inr (.inl ⟨a, b, hfirst, rfl, h.oe, h.initf, rfl, rfl⟩))))⟩
  · exact .ended (.inl rfl) ⟨_, _, by simp, by simp [hdl],
      .inr (.inr (.inr (.inr (.inr ⟨a, b, t1, t2, .fail, hfirst, hlong, h.oe, rfl, h.initf, rfl, rfl⟩))))⟩
  · rw [afterInit_homed (by exact h.k)]
    exact .ended (.inl rfl) ⟨_, _, by simp, by simp [hdl],
      .inr (.inr (.inr (.inr (.inr ⟨a, b, t1, t2, .ok, hfirst, hlong, h.oe, rfl, rfl, rfl, rfl⟩))))⟩

/-- Every edge of a busy phase. -/
theorem InitRun.advance (h : InitRun s u) (hw : takesWord u.phase = false) : InitRun s (advance x u) := by
  cases h with
  | configuring h => exact h.advance hfl x
  | clearing t1 t2 h => exact .of_clearing hfl x h
  | homing a b t1 t2 hlong h => exact .of_homing hfl x hlong h
  | ended hp h =>
    have hp : u.phase = .rsp := hp.resolve_right fun hp => by simp [hp, takesWord] at hw
    rw [advance_rsp x hp, edgeRsp]
    split
    · exact .ended (.inr rfl) h
    · exact .ended (.inl hp) h

end

/-- Settles O45: the run's invariant, read in `P_IDLE`. -/
theorem initOutcomes : Obligations.InitOutcomes := by
  intro s t ⟨_, hs, hz⟩ hr hexec hp
  have hfl : InFlight s (encode .init) t := inFlight_exec hs hz hr hexec
  obtain ⟨hses, hpin⟩ := hfl.lines.closed (by rw [hp]; rfl)
  refine ⟨hpin, hses, ?_⟩
  have hrun : InFlight s (encode .init) t ∧ InitRun s t := by
    refine exec_induct (P := fun u => InFlight s (encode .init) u ∧ InitRun s u) hexec hr
      (fun u l ⟨h, hrun⟩ => ⟨h.withInputs l, hrun.withInputs l⟩)
      (fun x u hw ⟨h, hrun⟩ => ⟨h.advance x, hrun.advance h x hw⟩) ⟨?_, .configuring ?_⟩
    · exact ⟨(quiet_start .init s).lines hs hz, rfl, rfl, rfl⟩
    · exact ⟨.inl rfl, rfl, rfl, rfl, (List.append_nil _).symm, rfl⟩
  obtain ⟨-, hrun⟩ := hrun
  cases hrun with
  | configuring h => simpa [hp, takesWord] using h.not_takesWord
  | clearing _ _ h | homing _ _ _ _ _ h => simpa [hp, takesWord] using h.sending.not_takesWord
  | ended _ h => exact h

end Sys2Proof.Machine

/-! ## O24, O25, O35: the GPIO layer's answers, and the error they raise

In `P_ACQ` and in `P_REL` an edge does what the answer sampled at it says: one equation for each answer, and none
moves the block. -/

namespace Sys2Proof.Machine

/-- Settles O35: the two cases of `raise`, which exclude one another. -/
theorem raisingAnErrorEndsTheOperation : Obligations.RaisingAnErrorEndsTheOperation := by
  intro c s
  rcases raise_cases c s with ⟨hb, hk, he⟩ | ⟨hans, he⟩ <;> rw [he]
  · exact ⟨fun _ => rfl, fun hans => (hans.elim (by simp [hb]) hk).elim⟩
  · exact ⟨fun ⟨hb, hk⟩ => (hans.elim (by simp [hb]) hk).elim, fun _ => rfl⟩

/-- After an error the session is not asked for: what is left is a drain or the response. -/
theorem wantsSession_raise (c : Status) (s : State) : wantsSession (raise c s).phase = false := by
  rcases raise_cases c s with ⟨-, -, he⟩ | ⟨-, he⟩ <;> rw [he] <;> rfl

/-- What ends or continues an operation keeps the entry recorded just before it. -/
theorem Quiet.trace_after {s t : State} (h : Quiet s t) {tr : List Event} {e : Event} (hs : s.trace = tr ++ [e]) :
    ∃ es, t.trace = tr ++ e :: es := by
  obtain ⟨es, ht, -⟩ := h.trace
  exact ⟨es, by simp [ht, hs]⟩

section
variable {x : PortIn} {s : State}

/-! ### The three answers to `Acquire()` (R126) -/

theorem clockEdge_acq (hp : s.phase = .acq) (hr : x.rst = false) : clockEdge x s = edgeAcq x s := by
  simp [clockEdge, hr, hp, takesWord, advance]

theorem edgeAcq_fail (he : errOf x.gpio = true) :
    edgeAcq x s = raise .deviceUnavailable (s.emit (.acq .fail)) := by
  simp [edgeAcq, acqAnswer, he]

theorem edgeAcq_ok (hp : s.phase = .acq) (he : errOf x.gpio = false) (hg : gntOf x.gpio true = true) :
    edgeAcq x s = { s with ses := true, trace := s.trace ++ [.acq .ok],
                           phase := if configuring s then .cfgoe else .select } := by
  simp [edgeAcq, acqAnswer, hp, wantsSession, he, hg]

theorem edgeAcq_wait (hp : s.phase = .acq) (he : errOf x.gpio = false) (hg : gntOf x.gpio true = false) :
    edgeAcq x s = s := by
  simp [edgeAcq, acqAnswer, hp, wantsSession, he, hg]

/-! ### The three answers to `Release()` (R127) -/

theorem clockEdge_rel (hp : s.phase = .rel) (hr : x.rst = false) : clockEdge x s = edgeRel x s := by
  simp [clockEdge, hr, hp, takesWord, advance]

theorem edgeRel_fail (he : errOf x.gpio = true) :
    edgeRel x s = raise .deviceUnavailable { s with ses := false, trace := s.trace ++ [.rel .fail] } := by
  simp [edgeRel, relAnswer, he]

theorem edgeRel_ok (hp : s.phase = .rel) (he : errOf x.gpio = false) (hg : gntOf x.gpio false = false) :
    edgeRel x s = afterTransmission { s with ses := false, trace := s.trace ++ [.rel .ok] } := by
  simp [edgeRel, relAnswer, hp, wantsSession, he, hg]

theorem edgeRel_wait (hp : s.phase = .rel) (he : errOf x.gpio = false) (hg : gntOf x.gpio false = true) :
    edgeRel x s = s := by
  simp [edgeRel, relAnswer, hp, wantsSession, he, hg]

end

/-- Settles O24: a refusal raises the error, a grant opens the session, and silence changes nothing. -/
theorem acquireAnswers : Obligations.AcquireAnswers := by
  intro x s hp hr
  rw [clockEdge_acq hp hr]
  refine ⟨by simp [outputs, hp, wantsSession], fun he => ?_, fun he hg => ?_, edgeAcq_wait hp⟩
  · rw [edgeAcq_fail he]
    have hq := quiet_raise .deviceUnavailable (s.emit (.acq .fail))
    exact ⟨hq.ses, wantsSession_raise .., raise_stat .., hq.trace_after rfl⟩
  · rw [edgeAcq_ok hp he hg]
    exact ⟨rfl, rfl, by cases hc : configuring s <;> simp [outputs, wantsSession]⟩

/-- Settles O25: either answer closes the session first, and what follows it writes no line. -/
theorem releaseAnswers : Obligations.ReleaseAnswers := by
  intro x s hp hr
  rw [clockEdge_rel hp hr]
  refine ⟨by simp [outputs, hp, wantsSession], fun he => ?_, fun he hg => ?_, edgeRel_wait hp⟩
  · rw [edgeRel_fail he]
    have hq := quiet_raise .deviceUnavailable { s with ses := false, trace := s.trace ++ [.rel .fail] }
    exact ⟨hq.ses, raise_stat .., hq.pin, hq.trace_after rfl⟩
  · rw [edgeRel_ok hp he hg]
    have hq := quiet_afterTransmission { s with ses := false, trace := s.trace ++ [.rel .ok] }
    exact ⟨hq.ses, hq.pin, hq.trace_after rfl⟩

end Sys2Proof.Machine

/-! ## O13, O26, O11: reset at any edge, and a block that hangs -/

namespace Sys2Proof.Machine

/-! ### Reset (R135 to R137) -/

/-- Reset wins over the request channel and the sequencer (R135). -/
theorem clockEdge_rst {x : PortIn} (s : State) (hr : x.rst = true) : clockEdge x s = applyReset s := by
  simp [clockEdge, hr]

/-- With E low there is no pulse to cut. -/
theorem applyReset_delivered_of_low {s : State} (he : level s.pin .e = false) :
    (applyReset s).delivered = s.delivered := by
  simp [applyReset, he]

theorem applyReset_delivered_of_high {s : State} (he : level s.pin .e = true) :
    (applyReset s).delivered = s.delivered ++ cutFrames s := by
  simp [applyReset, he]

/-- A cut pulse shows the controller nothing, or one frame (R137; log 11). -/
theorem cutFrames_cases (s : State) : cutFrames s = [] ∨ ∃ f, cutFrames s = [f] := by
  unfold cutFrames
  cases Config.cutPulse s.draws with
  | none => exact .inl rfl
  | some f => exact .inr ⟨f, rfl⟩

/-- Settles O13: with E high the list gains what the cut pulse shows, and nothing else is recorded. -/
theorem resetAbandonsTheOperation : Obligations.ResetAbandonsTheOperation := by
  intro x s hr
  rw [clockEdge_rst s hr]
  refine ⟨applyReset_oe s, applyReset_phase s, applyReset_trace s, rfl, applyReset_delivered_of_low, fun he => ?_⟩
  rw [applyReset_delivered_of_high he]
  rcases cutFrames_cases s with hf | ⟨f, hf⟩ <;> rw [hf]
  · exact .inl (List.append_nil _)
  · exact .inr ⟨f, rfl⟩

/-- Settles O11: the registers are those of `applyReset`, and the outputs those of `P_IDLE`. -/
theorem resetWinsAtEveryEdge : Obligations.ResetWinsAtEveryEdge := by
  intro x s hr
  rw [clockEdge_rst s hr]
  exact ⟨applyReset_initf s, applyReset_oe s, applyReset_pin s, applyReset_ses s, applyReset_phase s, rfl, rfl, rfl⟩

/-! ### Samples that do not move a busy phase (R149) -/

/-- In a busy phase every edge is the sequencer's or reset's. -/
theorem clockEdge_of_busy (x : PortIn) {s : State} (hw : takesWord s.phase = false) :
    clockEdge x s = busyEdge x s :=
  clockEdge_eq_busyEdge (by simp [hw])

/-- A busy phase that no sample moves lasts until the samples end. -/
theorem settleFrom_of_unmoved {s : State} (hw : takesWord s.phase = false) :
    ∀ xs : List PortIn, (∀ x ∈ xs, clockEdge x s = s) → settleFrom xs s = s.withInputs []
  | [], _ => rfl
  | x :: xs, h => by
    obtain ⟨hx, hxs⟩ := List.forall_mem_cons.1 h
    rw [settleFrom_busy x xs hw, ← clockEdge_of_busy x hw, hx]
    exact settleFrom_of_unmoved hw xs hxs

/-- A step in a busy phase that no sample moves uses the samples up, and nothing else happens. -/
theorem step_of_unmoved {s : State} (hc : usableConfig s.cfg = true) (hw : takesWord s.phase = false)
    (h : ∀ x ∈ s.inputs, clockEdge x s = s) : step s = .next (s.withInputs []) := by
  cases hi : s.inputs with
  | nil => rw [step_nil hc hi, ← hi]; rfl
  | cons x xs =>
    have hstill : ∀ y ∈ x :: xs, clockEdge y (s.withInputs xs) = s.withInputs xs := by
      intro y hy
      rw [clockEdge_of_busy y (s := s.withInputs xs) hw, busyEdge_withInputs, ← clockEdge_of_busy y hw,
        h y (hi ▸ hy)]
    obtain ⟨hx, hxs⟩ := List.forall_mem_cons.1 hstill
    rw [step_cons hc hi, hx]
    exact congrArg _ (settleFrom_of_unmoved (s := s.withInputs xs) hw xs hxs)

/-- Settles O26: silence moves neither `P_ACQ` nor `P_REL`, so the step is `step_of_unmoved`. -/
theorem silentGpioLayerHangsTheBlock : Obligations.SilentGpioLayerHangsTheBlock := by
  intro s t hc hr hsilent hstep
  have hw : takesWord s.phase = false := by
    rcases hsilent with ⟨hp, -⟩ | ⟨hp, -⟩ <;> rw [hp] <;> rfl
  have hunmoved : ∀ x ∈ s.inputs, clockEdge x s = s := by
    intro x hx
    rcases hsilent with ⟨hp, hgpio⟩ | ⟨hp, hgpio⟩ <;> obtain ⟨herr, hgnt⟩ := hgpio x hx
    · rw [clockEdge_acq hp (hr x hx), edgeAcq_wait hp herr hgnt]
    · rw [clockEdge_rel hp (hr x hx), edgeRel_wait hp herr hgnt]
  rw [step_of_unmoved hc hw hunmoved] at hstep
  exact (Host.Outcome.next.inj hstep).symm

end Sys2Proof.Machine
